-- ==== Sys2Proof/Word.lean ====
section
/-! DEFINITION. The plain value types of the block (00_scope.md rules R11, R12) and the
unknown value X. -/

namespace Sys2Proof

/-- R12: `Byte`, 0 to 255. -/
abbrev Byte := BitVec 8

/-- R12: `Unit9`, 0 to 511, a SerialUnit. -/
abbrev Unit9 := BitVec 9

/-- R12: `Pixel`, one 16-bit pixel. -/
abbrev Pixel := BitVec 16

/-- R12: a line level; `true` is the document's high (1), `false` its low (0). -/
abbrev Level := Bool

/-- R12: `PinId`, an opaque identifier of which only equality is used. DESIGN CHOICE (safe):
a natural number stands for the identifier; see log entry 15. -/
abbrev PinId := Nat

/-- R12: `BusId`, an opaque identifier of which only equality is used (log entry 15). -/
abbrev BusId := Nat

/-- R12: a whole number of milliseconds. -/
abbrev Ms := Nat

/-- R12: an element that holds a value or `X`, the unknown value, which is a value of the
spec's own notation (10_state.md R21 writes "1 bit or `X`", R52 gives it as reset value).
Reading an `X` yields an arbitrary value, a fresh one at every read; log entry 1. -/
inductive Xv (α : Type) where
  | x
  | val (a : α)
  deriving DecidableEq, Repr, Inhabited

end Sys2Proof
end

