-- ==== Sys2Proof/Config.lean ====
section
/-! DEFINITION. The parameters of the block: the numbers of 00_scope.md rule R8 as named
constants, the derived constants of R10, and the open parameters of R9 as one opaque constant. -/

namespace Sys2Proof

/-- Where a frame buffer lives (R9 `Placement`). The spec names external memory only
(R8 `FB_PLACEMENT`); DESIGN CHOICE (safe): any other placement is a number, log entry 15. -/
inductive Placement where
  | externalMemory
  | other (id : Nat)
  deriving DecidableEq, Repr, Inhabited

/-- 10_state.md R35: the timing configuration, nine unbounded naturals. -/
structure TimingConfig where
  pclkHz  : Nat
  hRes    : Nat
  vRes    : Nat
  hsyncPw : Nat
  hbp     : Nat
  hfp     : Nat
  vsyncPw : Nat
  vbp     : Nat
  vfp     : Nat
  deriving DecidableEq, Repr, Inhabited

/-- R9 `SHARED_SYNC_KIND`: what the shared pin carries after the hand-off. -/
inductive SyncKind where
  | hSync
  | vSync
  | otherSync
  deriving DecidableEq, Repr, Inhabited

/-- 30_encoding.md R92: one register program entry, a command byte and its data bytes. -/
structure Entry where
  command : Byte
  data    : List Byte
  deriving DecidableEq, Repr, Inhabited

/-- R8 `SER_TXN_TYPE`. The spec names one type of transaction: the length of its command phase is
given per transaction. -/
inductive TxnType where
  | variableCommandLength
  deriving DecidableEq, Repr, Inhabited

namespace Config

/-! Rule R8, one constant per row. The values are the printed ones and unaudited (R5): mark
UNVERIFIED, unsafe, log entry 16. -/

def unitBits : Nat := 9
def byteBits : Nat := 8
def serClockHz : Nat := 10000000
def serMode : Nat := 0
def serQueueDepth : Nat := 7
/-- 10 KiB. -/
def serMaxTransfer : Nat := 10240
def serTxnType : TxnType := .variableCommandLength
/-- R8 `SER_TXN_TYPE`: the length of the command phase that every transaction of this block
gives. -/
def serTxnCommandBits : Nat := unitBits
def tRstHigh1 : Ms := 10
def tRstLow : Ms := 50
def tRstHigh2 : Ms := 100
def tSleepOut : Ms := 120
def tDisplayOn : Ms := 20
def parWidth : Nat := 16
def pclkHz : Nat := 15000000
def hRes : Nat := 480
def vRes : Nat := 480
def hsyncPw : Nat := 10
def vsyncPw : Nat := 10
def hbp : Nat := 40
def vbp : Nat := 40
def hfp : Nat := 8
def vfp : Nat := 8
def fbPlacement : Placement := .externalMemory
def xferAlign : Nat := 64
def pixelBits : Nat := 16

/-- The timing `BRING_UP` passes (10_state.md R35, last column). -/
def timing : TimingConfig where
  pclkHz  := pclkHz
  hRes    := hRes
  vRes    := vRes
  hsyncPw := hsyncPw
  hbp     := hbp
  hfp     := hfp
  vsyncPw := vsyncPw
  vbp     := vbp
  vfp     := vfp

/-! Rule R10, the derived constants. -/

def hTotal : Nat := hfp + hsyncPw + hbp + hRes
def vTotal : Nat := vfp + vsyncPw + vbp + vRes
def frameClocks : Nat := hTotal * vTotal
def fbPixels : Nat := hRes * vRes
def fbBytes : Nat := fbPixels * pixelBits / 8
def tRstTotal : Ms := tRstHigh1 + tRstLow + tRstHigh2
def unitMax : Nat := 2 ^ unitBits - 1

end Config

/-- The open parameters of rule R9, "an open parameter the model takes as an argument".
They never change (70_reset_and_hazards.md R233) and are no part of the state (10_state.md,
head). The two environmental draws of R9 are not here: they are in the state's `draws`. -/
structure Params where
  /-- `REG_PROGRAM`, the register program table (42_program.md R135). -/
  regProgram     : List Entry
  cmdSleepOut    : Byte
  cmdDisplayOn   : Byte
  pinShared      : PinId
  pinBl          : PinId
  pinSelect      : PinId
  serBus         : BusId
  /-- The clock and data wires of `SER_BUS`; named only in 43_pinmux.md R150. -/
  serBusWires    : List PinId
  dataPinMap     : List PinId
  sharedSyncKind : SyncKind
  blOnLevel      : Level
  pinValid       : PinId → Bool
  fbCapacity     : Placement → Nat
  pclkMaxHz      : Nat
  timingInRange  : TimingConfig → Bool
  /-- `TX_TIMEOUT`: none, or a time (90_conflicts.md C4). -/
  txTimeout      : Option Ms
  deriving Inhabited

/-- 43_pinmux.md R150: the shared pin and the backlight pin are two pins, and neither is a
data pin, the select pin or a wire of the serial bus. -/
def Params.PinsDistinct (p : Params) : Prop :=
  p.pinShared ≠ p.pinBl ∧
  (∀ q ∈ p.pinSelect :: (p.dataPinMap ++ p.serBusWires), q ≠ p.pinShared ∧ q ≠ p.pinBl)

/-- The constraints that 92_eei_decisions.md D27 lets a model assume of the parameters:
`PinValid` true of all the named pins and 16 pairwise distinct data pins, the numbers of R8
within every limit ("The model must assume `TimingInRange` holds of the rule R8 values"), and
a time-out, if there is one, that is positive. Log entry 3 (unsafe). -/
structure Params.Constraints (p : Params) : Prop where
  pinsDistinct  : p.PinsDistinct
  pinsValid     : ∀ q ∈ p.pinShared :: p.pinBl :: p.pinSelect :: p.dataPinMap, p.pinValid q = true
  dataPinCount  : p.dataPinMap.length = 16
  dataPinsNodup : p.dataPinMap.Nodup
  capacity      : Config.fbBytes ≤ p.fbCapacity Config.fbPlacement
  pclkLimit     : Config.pclkHz ≤ p.pclkMaxHz
  timingRange   : p.timingInRange Config.timing = true
  timeout       : ∀ t, p.txTimeout = some t → 0 < t

namespace Config

/-- Parameters that meet the constraints: used to show that there are some, and in tests. They
are an example and no part of any rule (the synthetic table of 95_test_vectors.md program P2
and the example bytes and level of its Part 3). -/
def exampleParams : Params where
  regProgram     := [⟨0xFF, [0x77, 0x01]⟩, ⟨0x3A, [0x55]⟩, ⟨0x21, []⟩]
  cmdSleepOut    := 0x11
  cmdDisplayOn   := 0x29
  pinShared      := 1
  pinBl          := 2
  pinSelect      := 3
  serBus         := 0
  serBusWires    := [4, 5]
  dataPinMap     := List.range' 10 16
  sharedSyncKind := .hSync
  blOnLevel      := true
  pinValid       := fun p => decide (p < 40)
  fbCapacity     := fun _ => 1000000
  pclkMaxHz      := 20000000
  timingInRange  := fun _ => true
  txTimeout      := none

theorem exampleParams_constraints : exampleParams.Constraints where
  pinsDistinct  := by unfold Params.PinsDistinct; decide
  pinsValid     := by decide
  dataPinCount  := by decide
  dataPinsNodup := by decide
  capacity      := by decide
  pclkLimit     := by decide
  timingRange   := rfl
  timeout       := by intro t h; cases h

/-- Parameters together with their constraints. The default values say only that the type is
inhabited. -/
structure Checked where
  val : Params := exampleParams
  ok  : val.Constraints := by exact exampleParams_constraints
  deriving Inhabited

/-- The parameters of this hardware: an opaque constant, of which nothing is known but the
constraints of D27. -/
opaque checkedParams : Checked

/-- The open parameters of R9 as `exec` uses them. -/
def params : Params := checkedParams.val

/-- D27: the one thing known of the parameters (log entry 3). -/
theorem params_constraints : params.Constraints := checkedParams.ok

/-- R12, R13 `draw`: a free value of a type. Nothing is known of it; `n` is the state's count
of draws made so far, so that each draw is a fresh value (log entry 2). -/
opaque free (α : Type) [Inhabited α] (n : Nat) : α

end Config

end Sys2Proof
end

