-- ==== Sys2Proof/Syntax.lean ====
section
/-! DEFINITION. The instructions of spec/opcode_table.json as one inductive, and the coded forms
an operation has outside the machine: format H with its typed operands, format W. -/

namespace Sys2Proof

/-- One constructor per row of spec/opcode_table.json: the 16 host operations with the
operands of 30_encoding.md R95, and the two wire frame kinds of R91. -/
inductive Instr where
  /-- `ENC_CMD b` (R110). -/
  | encCmd (b : Byte)
  /-- `ENC_DATA b` (R111). -/
  | encData (b : Byte)
  /-- `DEC_UNIT u` (R112). -/
  | decUnit (u : Unit9)
  /-- `OPEN bus, clock_hz, mode, select_pin, queue_depth` (R121). -/
  | openBus (bus : BusId) (clockHz : Nat) (mode : Nat) (selectPin : PinId) (queueDepth : Nat)
  /-- `SEND u` (R124). -/
  | send (u : Unit9)
  /-- `CLOSE` (R128). -/
  | close
  /-- `RUN` (R137). -/
  | run
  /-- `DELAY t` (R143). -/
  | delay (t : Ms)
  /-- `CONFIGURE_OUTPUT pin` (R152). -/
  | configureOutput (pin : PinId)
  /-- `SET_LEVEL h, level` (R154). -/
  | setLevel (h : PinId) (level : Level)
  /-- `TIMED_RESET_SEQUENCE h` (R156). -/
  | timedResetSequence (h : PinId)
  /-- `P_CONFIGURE tc, bus_width, placement, pinmap` (R167). -/
  | pConfigure (tc : TimingConfig) (busWidth : Nat) (placement : Placement) (pinmap : List PinId)
  /-- `P_RESET` (R172). -/
  | pReset
  /-- `P_INIT` (R173). -/
  | pInit
  /-- `DRAW_RECT x0, y0, x1, y1, pixels` (R176). -/
  | drawRect (x0 y0 x1 y1 : Int) (pixels : List Pixel)
  /-- `BRING_UP` (R190). -/
  | bringUp
  /-- The wire frame `CMD b`, `0bbbbbbbb` (R91, R126). -/
  | cmd (b : Byte)
  /-- The wire frame `DATA b`, `1bbbbbbbb` (R91, R126). -/
  | data (b : Byte)
  deriving DecidableEq, Repr

/-- The 16 host operations by name, without their operands (30_encoding.md R94). -/
inductive HostOp where
  | encCmd | encData | decUnit
  | openBus | send | close
  | run | delay
  | configureOutput | setLevel | timedResetSequence
  | pConfigure | pReset | pInit | drawRect
  | bringUp
  deriving DecidableEq, Repr

/-- A raw operand, as the host hands it over beside the operation code (R93: "passed as typed
values beside the code, not packed into bits"). The numbers are unbounded integers, so that a
value outside an operand's type can be written down and refused (R97). Log entry 5. -/
inductive Operand where
  | num (n : Int)
  | nums (ns : List Int)
  deriving DecidableEq, Repr, Inhabited

/-- An instruction outside the machine: format H, an operation code with its operand list
(R93), or format W, one unit (R91). Both numbers are unbounded, and the decoder refuses a code
of more than 8 bits and a unit of more than 9. -/
inductive CodeWord where
  | hostOp (op : Nat) (args : List Operand)
  | frame (u : Nat)
  deriving DecidableEq, Repr, Inhabited

/-- 30_encoding.md R103: the pseudo-operations. -/
inductive Pseudo where
  | writeReg (c : Byte) (ds : List Byte)
  | sleepOut
  | displayOn
  | backlightOff
  | backlightOn
  deriving DecidableEq, Repr

end Sys2Proof
end

