-- ==== Sys2Proof/WellFormed.lean ====
section
/-! DEFINITION. The check on an instruction's operands that its types leave open. -/

namespace Sys2Proof

/-- 30_encoding.md R95 and R97. `Byte`, `Unit9`, `Level` and `Pixel` operands are in range by
their types here; a pin map is a list, and R95 wants 16 entries. -/
def Instr.wellFormed : Instr → Bool
  | .pConfigure _ _ _ pinmap => pinmap.length == 16
  | .encCmd _ | .encData _ | .decUnit _ | .openBus _ _ _ _ _ | .send _ | .close | .run
  | .delay _ | .configureOutput _ | .setLevel _ _ | .timedResetSequence _ | .pReset | .pInit
  | .drawRect _ _ _ _ _ | .bringUp | .cmd _ | .data _ => true

end Sys2Proof
end

