-- ==== Sys2Proof/Decode.lean ====
section
/-! DEFINITION. The decoder and the encoder: format W (30_encoding.md R91, R96), format E (R92,
R98, R99), format H (R93 to R95, R97, R101), the line syntax's mnemonics (R102) and the
pseudo-operations (R103). -/

namespace Sys2Proof

/-! ## Format W: the SerialUnit -/

/-- R91, R96: `unit = (zext_9(role) << 8) | zext_9(byte)`. -/
def unitOf (role : Bool) (b : Byte) : Unit9 :=
  ((BitVec.ofBool role).setWidth 9 <<< 8) ||| b.setWidth 9

/-- R91: bit 8, the command/data discriminator. -/
def unitRole (u : Unit9) : Bool := u.getLsbD 8

/-- R91: bits 7:0. -/
def unitByte (u : Unit9) : Byte := u.extractLsb' 0 8

/-! ## Format E: a register program entry as frames, and back -/

/-- R92: the `1 + n` frames of an entry, command first, data bytes in order. -/
def Entry.frames (e : Entry) : List Unit9 :=
  unitOf false e.command :: e.data.map (unitOf true)

/-- R98: the data bytes at the head of a frame stream (the frames with role 1) and the rest. -/
def takeData : List Unit9 → List Byte × List Unit9
  | [] => ([], [])
  | u :: us =>
    if unitRole u then (unitByte u :: (takeData us).1, (takeData us).2) else ([], u :: us)

/-- R98: a frame with role 0 begins an entry; every following frame with role 1 is a data byte
of it. The recursion takes one frame at a time: `entriesOfFrames` of a stream that begins with
data frames skips them (they belong to no entry, R99, and `takeData` names them). -/
def entriesOfFrames : List Unit9 → List Entry
  | [] => []
  | u :: us =>
    if unitRole u then entriesOfFrames us
    else ⟨unitByte u, (takeData us).1⟩ :: entriesOfFrames us

/-- R99: the data bytes of a stream that belong to no entry. -/
def strayData (us : List Unit9) : List Byte := (takeData us).1

/-! ## Format H: the operation codes -/

/-- R94, the code column. -/
def HostOp.code : HostOp → Nat
  | .encCmd => 0x01
  | .encData => 0x02
  | .decUnit => 0x03
  | .openBus => 0x10
  | .send => 0x11
  | .close => 0x12
  | .run => 0x20
  | .delay => 0x21
  | .configureOutput => 0x30
  | .setLevel => 0x31
  | .timedResetSequence => 0x32
  | .pConfigure => 0x40
  | .pReset => 0x41
  | .pInit => 0x42
  | .drawRect => 0x43
  | .bringUp => 0x50

/-- R94, the mnemonic column. -/
def HostOp.mnemonic : HostOp → String
  | .encCmd => "ENC_CMD"
  | .encData => "ENC_DATA"
  | .decUnit => "DEC_UNIT"
  | .openBus => "OPEN"
  | .send => "SEND"
  | .close => "CLOSE"
  | .run => "RUN"
  | .delay => "DELAY"
  | .configureOutput => "CONFIGURE_OUTPUT"
  | .setLevel => "SET_LEVEL"
  | .timedResetSequence => "TIMED_RESET_SEQUENCE"
  | .pConfigure => "P_CONFIGURE"
  | .pReset => "P_RESET"
  | .pInit => "P_INIT"
  | .drawRect => "DRAW_RECT"
  | .bringUp => "BRING_UP"

/-- The 16 operations in the order of R94. -/
def HostOp.all : List HostOp :=
  [.encCmd, .encData, .decUnit, .openBus, .send, .close, .run, .delay, .configureOutput,
   .setLevel, .timedResetSequence, .pConfigure, .pReset, .pInit, .drawRect, .bringUp]

/-- R93: all 8 bits of the code are matched. R101: no other value spells an operation. -/
def HostOp.ofCode (op : Nat) : Option HostOp := HostOp.all.find? fun o => o.code == op

/-- R102: a line of a program begins with the mnemonic. -/
def HostOp.ofMnemonic (m : String) : Option HostOp := HostOp.all.find? fun o => o.mnemonic == m

/-! ## Operands -/

/-- Why a coded instruction has no meaning. -/
inductive DecodeError where
  /-- R101: the code is reserved. -/
  | reservedCode
  /-- R102: the mnemonic names no operation. -/
  | unknownMnemonic
  /-- R95: the operand list has another length than the operation's. -/
  | operandCount
  /-- R95: a number where a list stands in R95, or a list where a number stands. -/
  | operandKind
  /-- R97: an operand outside its type's range. -/
  | operandRange
  /-- R91: a unit of more than 9 bits. -/
  | unitRange
  deriving DecidableEq, Repr

/-- R97: a natural number; a negative value is refused. -/
def natOfInt (n : Int) : Except DecodeError Nat :=
  if 0 ≤ n then .ok n.toNat else .error .operandRange

/-- R97: an unsigned value of width `w`, never truncated. -/
def bitsOfInt (w : Nat) (n : Int) : Except DecodeError (BitVec w) :=
  if 0 ≤ n ∧ n < 2 ^ w then .ok (BitVec.ofNat w n.toNat) else .error .operandRange

/-- R12: a `Level`, 0 or 1. -/
def levelOfInt (n : Int) : Except DecodeError Level :=
  if n = 0 then .ok false else if n = 1 then .ok true else .error .operandRange

/-- The placement a number names: DESIGN CHOICE (safe), 0 is external memory, log entry 15. -/
def placementOfNat : Nat → Placement
  | 0 => .externalMemory
  | k + 1 => .other k

/-- The number that names a placement. -/
def natOfPlacement : Placement → Nat
  | .externalMemory => 0
  | .other k => k + 1

/-- Read every element of a list, or fail at the first that does not read. -/
def readAll {α : Type} (f : Int → Except DecodeError α) : List Int → Except DecodeError (List α)
  | [] => .ok []
  | n :: ns =>
    match f n with
    | .error e => .error e
    | .ok a =>
      match readAll f ns with
      | .error e => .error e
      | .ok as => .ok (a :: as)

/-- A single operand read by `f`. -/
def Operand.scalar {α : Type} (f : Int → Except DecodeError α) : Operand → Except DecodeError α
  | .num n => f n
  | .nums _ => .error .operandKind

/-- A list operand, each element read by `f`. -/
def Operand.list {α : Type} (f : Int → Except DecodeError α) :
    Operand → Except DecodeError (List α)
  | .num _ => .error .operandKind
  | .nums ns => readAll f ns

/-- R95: the nine fields of a `TimingConfig`, in the order of 10_state.md R35. -/
def timingOfNats : List Nat → Except DecodeError TimingConfig
  | [pclk, h, v, hs, hb, hf, vs, vb, vf] => .ok ⟨pclk, h, v, hs, hb, hf, vs, vb, vf⟩
  | _ => .error .operandCount

/-- The nine fields of a `TimingConfig` as the operand lists them. -/
def natsOfTiming (tc : TimingConfig) : List Nat :=
  [tc.pclkHz, tc.hRes, tc.vRes, tc.hsyncPw, tc.hbp, tc.hfp, tc.vsyncPw, tc.vbp, tc.vfp]

/-- R95: a pin map has 16 entries. -/
def pinmapOfNats (ps : List Nat) : Except DecodeError (List PinId) :=
  if ps.length = 16 then .ok ps else .error .operandCount

/-- R95: the operands of an operation, in order, with their types. -/
def decodeArgs : HostOp → List Operand → Except DecodeError Instr
  | .encCmd, [b] => do
    let b ← b.scalar (bitsOfInt 8)
    .ok (.encCmd b)
  | .encData, [b] => do
    let b ← b.scalar (bitsOfInt 8)
    .ok (.encData b)
  | .decUnit, [u] => do
    let u ← u.scalar (bitsOfInt 9)
    .ok (.decUnit u)
  | .openBus, [bus, clk, mode, sel, depth] => do
    let bus ← bus.scalar natOfInt
    let clk ← clk.scalar natOfInt
    let mode ← mode.scalar natOfInt
    let sel ← sel.scalar natOfInt
    let depth ← depth.scalar natOfInt
    .ok (.openBus bus clk mode sel depth)
  | .send, [u] => do
    let u ← u.scalar (bitsOfInt 9)
    .ok (.send u)
  | .close, [] => .ok .close
  | .run, [] => .ok .run
  | .delay, [t] => do
    let t ← t.scalar natOfInt
    .ok (.delay t)
  | .configureOutput, [pin] => do
    let pin ← pin.scalar natOfInt
    .ok (.configureOutput pin)
  | .setLevel, [h, l] => do
    let h ← h.scalar natOfInt
    let l ← l.scalar levelOfInt
    .ok (.setLevel h l)
  | .timedResetSequence, [h] => do
    let h ← h.scalar natOfInt
    .ok (.timedResetSequence h)
  | .pConfigure, [tc, width, placement, pinmap] => do
    let tc ← tc.list natOfInt
    let tc ← timingOfNats tc
    let width ← width.scalar natOfInt
    let placement ← placement.scalar natOfInt
    let pinmap ← pinmap.list natOfInt
    let pinmap ← pinmapOfNats pinmap
    .ok (.pConfigure tc width (placementOfNat placement) pinmap)
  | .pReset, [] => .ok .pReset
  | .pInit, [] => .ok .pInit
  | .drawRect, [x0, y0, x1, y1, px] => do
    let x0 ← x0.scalar Except.ok
    let y0 ← y0.scalar Except.ok
    let x1 ← x1.scalar Except.ok
    let y1 ← y1.scalar Except.ok
    let px ← px.list (bitsOfInt 16)
    .ok (.drawRect x0 y0 x1 y1 px)
  | .bringUp, [] => .ok .bringUp
  | _, _ => .error .operandCount

/-- R91: the two wire frame kinds; all 512 units are legal (R100). -/
def decodeUnit (u : Unit9) : Instr :=
  if unitRole u then .data (unitByte u) else .cmd (unitByte u)

/-- The decoder, total on any coded instruction. -/
def decode : CodeWord → Except DecodeError Instr
  | .hostOp op args =>
    match HostOp.ofCode op with
    | some o => decodeArgs o args
    | none => .error .reservedCode
  | .frame u => if u < 512 then .ok (decodeUnit (BitVec.ofNat 9 u)) else .error .unitRange

/-- R102: one line of a program, its mnemonic and its operands. The text of a line (commas,
brackets, hexadecimal numerals) is not modelled, log entry 5. -/
def assemble (mnemonic : String) (args : List Operand) : Except DecodeError Instr :=
  match HostOp.ofMnemonic mnemonic with
  | some o => decodeArgs o args
  | none => .error .unknownMnemonic

/-! ## The encoder -/

/-- A list of naturals as a list operand. -/
def Operand.ofNats (ns : List Nat) : Operand := .nums (ns.map Int.ofNat)

/-- R94, R95, R91: the coded form of an instruction. -/
def encode : Instr → CodeWord
  | .encCmd b => .hostOp 0x01 [.num b.toNat]
  | .encData b => .hostOp 0x02 [.num b.toNat]
  | .decUnit u => .hostOp 0x03 [.num u.toNat]
  | .openBus bus clk mode sel depth =>
    .hostOp 0x10 [.num bus, .num clk, .num mode, .num sel, .num depth]
  | .send u => .hostOp 0x11 [.num u.toNat]
  | .close => .hostOp 0x12 []
  | .run => .hostOp 0x20 []
  | .delay t => .hostOp 0x21 [.num t]
  | .configureOutput pin => .hostOp 0x30 [.num pin]
  | .setLevel h l => .hostOp 0x31 [.num h, .num l.toNat]
  | .timedResetSequence h => .hostOp 0x32 [.num h]
  | .pConfigure tc width placement pinmap =>
    .hostOp 0x40 [.ofNats (natsOfTiming tc), .num width, .num (natOfPlacement placement),
      .ofNats pinmap]
  | .pReset => .hostOp 0x41 []
  | .pInit => .hostOp 0x42 []
  | .drawRect x0 y0 x1 y1 px =>
    .hostOp 0x43 [.num x0, .num y0, .num x1, .num y1, .ofNats (px.map BitVec.toNat)]
  | .bringUp => .hostOp 0x50 []
  | .cmd b => .frame b.toNat
  | .data b => .frame (256 + b.toNat)

/-! ## The opcode table's words -/

/-- The operand list of zeros: every number 0, every list of fixed length full of zeros, the
pixel list empty (log entry 5). -/
def HostOp.zeroArgs : HostOp → List Operand
  | .encCmd | .encData | .decUnit | .send | .delay | .configureOutput | .timedResetSequence =>
    [.num 0]
  | .openBus => [.num 0, .num 0, .num 0, .num 0, .num 0]
  | .close | .run | .pReset | .pInit | .bringUp => []
  | .setLevel => [.num 0, .num 0]
  | .pConfigure => [.nums (List.replicate 9 0), .num 0, .num 0, .nums (List.replicate 16 0)]
  | .drawRect => [.num 0, .num 0, .num 0, .num 0, .nums []]

/-- The coded instruction of a table word: a row of at most 8 bits is format H with operands of
zeros, a wider one (9 bits, two whole bytes) is format W. -/
def tableWord (nbits w : Nat) : CodeWord :=
  if nbits ≤ 8 then
    .hostOp w (match HostOp.ofCode w with | some o => o.zeroArgs | none => [])
  else .frame w

/-- What the decoder reads from a table word; see `tableWord`. -/
def decodeTableWord (nbits w : Nat) : Option Instr :=
  match decode (tableWord nbits w) with
  | .ok i => some i
  | .error _ => none

/-! ## Pseudo-operations -/

/-- R103: the expansion of a pseudo-operation. `SEND ENC_CMD(c)` sends the unit the codec makes. -/
def Pseudo.expand (P : Params) : Pseudo → List Instr
  | .writeReg c ds => (Entry.mk c ds).frames.map .send
  | .sleepOut => [.send (unitOf false P.cmdSleepOut), .delay Config.tSleepOut]
  | .displayOn => [.send (unitOf false P.cmdDisplayOn), .delay Config.tDisplayOn]
  | .backlightOff => [.setLevel P.pinBl (!P.blOnLevel)]
  | .backlightOn => [.setLevel P.pinBl P.blOnLevel]

end Sys2Proof
end

