-- ==== Sys2Proof/Machine/State.lean ====
section
/-! DEFINITION. The state of the block (10_state.md), the results, errors, faults and refusals,
and the state after power-on reset (R52). Plain data only. -/

namespace Sys2Proof.Machine

/-! ## The values of the state elements -/

/-- R27: who owns the shared serial wires. -/
inductive BusOwner where
  | free
  | serial
  | parallel
  deriving DecidableEq, Repr

/-- R28: whether the transport holds its peer device. -/
inductive TState where
  | closed
  | opened
  deriving DecidableEq, Repr

/-- R12, R31: the role of the shared pin. -/
inductive PinRole where
  | unassigned
  | digitalResetOutput
  | hardwareSyncSignal
  deriving DecidableEq, Repr

/-- R34: the state of the parallel interface. -/
inductive PState where
  | unconfigured
  | configured
  | resetDone
  | streaming
  deriving DecidableEq, Repr

/-- R24: the state of the register program sequencer. -/
inductive PrgState where
  | idle
  | running
  | done
  | aborted
  deriving DecidableEq, Repr

/-- R25: the state of the master sequencer. -/
inductive BuState where
  | idle
  | running
  | ready
  | failed
  deriving DecidableEq, Repr

/-- R50: the ghost of the panel controller, which is outside the block. -/
inductive Panel where
  | unknown
  | reset
  | programming
  | programmed
  | undefined
  deriving DecidableEq, Repr

/-! ## Errors and results -/

/-- R201: the `info` of a `ConfigError`. -/
inductive ConfigInfo where
  | pinConflict
  | badWidth
  | badPinMap
  | timingOutOfRange
  | bufferTooLarge
  | clockTooFast
  | pinOwnedByTimingGenerator
  deriving DecidableEq, Repr

/-- R202: the `info` of a `BusUnavailable`. -/
inductive BusInfo where
  | alreadyInUse
  | invalidPin
  deriving DecidableEq, Repr

/-- R203: the `info` of a `TransportError`. -/
inductive TxCause where
  | queueFull
  | deviceFault
  | timeout
  deriving DecidableEq, Repr

/-- R205: the `info` of an `OutOfBounds`. -/
inductive BoundsInfo where
  | badRect
  | badLength
  deriving DecidableEq, Repr

/-- R200: the five errors, each with its info. -/
inductive Err where
  | configError (info : ConfigInfo)
  | busUnavailable (info : BusInfo)
  | transportError (cause : TxCause)
  /-- R204: the index of the failed step and the cause its `SEND` reported. -/
  | programAborted (step : Nat) (cause : TxCause)
  | outOfBounds (info : BoundsInfo)
  deriving DecidableEq, Repr

/-- The values an operation returns on `ok` (30_encoding.md R95, result column). -/
inductive Value where
  | none
  | unit (u : Unit9)
  | decoded (role : Bool) (b : Byte)
  | handle (pin : PinId)
  deriving DecidableEq, Repr

/-- R12, R14: what a completed operation returns to its caller. -/
inductive Result where
  | ok (v : Value)
  | err (e : Err)
  deriving DecidableEq, Repr

/-! ## The trace -/

/-- R48: who takes the bus. -/
inductive BusUser where
  | serial
  | parallel
  deriving DecidableEq, Repr

/-- R48: the externally visible events. -/
inductive Event where
  | busClaim (who : BusUser)
  | busRelease
  | frame (u : Unit9)
  | txFault (u : Unit9)
  | level (pin : PinId) (l : Level)
  | wait (t : Ms)
  | role (pin : PinId) (r : PinRole)
  | parConfigured
  | parReset
  | streamStart
  | rowWrite (y x0 : Nat) (px : List Pixel)
  | line (y : Nat) (px : List Pixel)
  deriving DecidableEq, Repr

/-! ## The frame buffer -/

/-- R39, R60: the frame buffer, `size` cells named by pixel index. `cells` lists the cells that
hold a pixel, by strictly rising index; a cell that is not listed holds X (R168). -/
structure Memory where
  size  : Nat
  cells : List (Nat × Pixel)
  deriving DecidableEq, Repr

/-! ## The environment's and the free choices -/

/-- R9: the two draws of one serial transaction. -/
structure TxDraw where
  hang  : Bool
  fault : Bool
  deriving DecidableEq, Repr, Inhabited

/-- The MODEL's own field (log entry 2): choices that the spec leaves to the environment or
leaves open. A choice comes from its list while the list has one, and from the opaque
`Config.free` applied to `count` after that. -/
structure Draws where
  /-- How many opaque choices have been made. -/
  count  : Nat
  /-- The environment's outcomes of the coming serial transactions. -/
  tx     : List TxDraw
  /-- The numbers of pixel clocks that pass at the coming seams between thread events. -/
  clocks : List Nat
  /-- Which of the rows not yet written `DRAW_RECT` writes next. -/
  picks  : List Nat
  deriving DecidableEq, Repr, Inhabited

/-- Whether the controlling thread can take a further step (00_scope.md R13 `stuck`). -/
inductive Thread where
  | running
  | stuck
  deriving DecidableEq, Repr

/-! ## The state -/

/-- Every piece of state of 10_state.md, and four fields of the model's own at the end. -/
structure State where
  /-- `BUS_OWNER` (R27). -/
  busOwner     : BusOwner
  /-- `T_STATE` (R28). -/
  tState       : TState
  /-- `T_BUS` (R29). -/
  tBus         : Xv BusId
  /-- `T_CLOCK_HZ` (R29). -/
  tClockHz     : Xv Nat
  /-- `T_MODE` (R29). -/
  tMode        : Xv Nat
  /-- `T_SELECT` (R29). -/
  tSelect      : Xv PinId
  /-- `T_QDEPTH` (R29). -/
  tQdepth      : Xv Nat
  /-- `T_OUTSTANDING` (R30). -/
  tOutstanding : Nat
  /-- `TXSR` (R21). -/
  txsr         : Xv Unit9
  /-- `ROLE` (R31). -/
  role         : PinRole
  /-- `RST_LEVEL` (R21). -/
  rstLevel     : Xv Level
  /-- `BL_CFG` (R32). -/
  blCfg        : Bool
  /-- `BL_LEVEL` (R21). -/
  blLevel      : Xv Level
  /-- `P_STATE` (R34). -/
  pState       : PState
  /-- `TC` (R35). -/
  tc           : Xv TimingConfig
  /-- `P_WIDTH` (R36). -/
  pWidth       : Xv Nat
  /-- `P_PLACEMENT` (R36). -/
  pPlacement   : Xv Placement
  /-- `P_PINMAP[0..15]` (R36). -/
  pPinmap      : Xv (List PinId)
  /-- `P_ALIGN` (R36). -/
  pAlign       : Xv Nat
  /-- `FB` (R39); `none` while it does not exist. -/
  fb           : Option Memory
  /-- `HCNT` (R37). -/
  hcnt         : Xv Nat
  /-- `VCNT` (R37). -/
  vcnt         : Xv Nat
  /-- `LINEBUF` (R21). -/
  linebuf      : Xv (List Pixel)
  /-- `PRG_PC` (R22). -/
  prgPc        : Nat
  /-- `PRG_STATE` (R24). -/
  prgState     : PrgState
  /-- `BU_STEP` (R23). -/
  buStep       : Nat
  /-- `BU_STATE` (R25). -/
  buState      : BuState
  /-- `BU_ERR` (R25). -/
  buErr        : Option Err
  /-- `TRACE` (R48), oldest first. -/
  trace        : List Event
  /-- `PANEL` (R50), a ghost: no operation's result depends on it. -/
  panel        : Panel
  /-- The model's own: the operations the host has still to issue (R102; log entry 4). -/
  program      : List CodeWord
  /-- The model's own: whether the controlling thread is stuck (R13, R14; log entry 9). -/
  thread       : Thread
  /-- The model's own: the result the last completed operation returned (R14; log entry 8). -/
  result       : Option Result
  /-- The model's own: the environment's and the free choices (log entry 2). -/
  draws        : Draws
  deriving DecidableEq, Repr

/-- R52, R230: the state after power-on reset. The last four fields are the model's own. -/
def State.reset : State where
  busOwner     := .free
  tState       := .closed
  tBus         := .x
  tClockHz     := .x
  tMode        := .x
  tSelect      := .x
  tQdepth      := .x
  tOutstanding := 0
  txsr         := .x
  role         := .unassigned
  rstLevel     := .x
  blCfg        := false
  blLevel      := .x
  pState       := .unconfigured
  tc           := .x
  pWidth       := .x
  pPlacement   := .x
  pPinmap      := .x
  pAlign       := .x
  fb           := none
  hcnt         := .x
  vcnt         := .x
  linebuf      := .x
  prgPc        := 0
  prgState     := .idle
  buStep       := 0
  buState      := .idle
  buErr        := none
  trace        := []
  panel        := .unknown
  program      := []
  thread       := .running
  result       := none
  draws        := ⟨0, [], [], []⟩

/-! ## Stops -/

/-- The machine stops of the model. The five errors of the spec are results, not faults. -/
inductive Fault where
  /-- Raised by `MemRead` and `MemWrite` for a cell that does not exist (20_memory.md R62), in
  a state that no run from reset reaches. Safe: the model stops. -/
  | frameBufferAccess
  deriving DecidableEq, Repr

/-- The uses to which the spec gives no meaning (R13 `refuse`; list in R14). All are safe: the
model gives no result. -/
inductive Refusal where
  /-- Raised by `exec` alone, for an instruction without a meaning. Safe. -/
  | notModelled (mnemonic : String)
  /-- Raised by `step` for a coded instruction that does not decode (R97, R101, U15). Safe. -/
  | undecodable (e : DecodeError)
  /-- Raised by `P_CONFIGURE` on a pin map that has not 16 entries (R97). Safe. -/
  | operandOutsideType
  /-- Raised by `SEND` and the wire frames (R124, U3). Safe. -/
  | sendOnClosedTransport
  /-- Raised by `CLOSE` (R128, U3). Safe. -/
  | closeOnClosedTransport
  /-- Raised by `RUN` (R137, U3). Safe. -/
  | runOnClosedTransport
  /-- Raised by `CONFIGURE_OUTPUT` and `SET_LEVEL` (R152, R154, U6). Safe. -/
  | pinOutsideBlock
  /-- Raised by `SET_LEVEL` (R154, U6). Safe. -/
  | handleNotConfigured
  /-- Raised by `P_CONFIGURE` (R167, U7). Safe. -/
  | reconfigure
  /-- Raised by `P_RESET` (R172, U7). Safe. -/
  | resetOutOfOrder
  /-- Raised by `P_INIT` (R173, U7). Safe. -/
  | initOutOfOrder
  /-- Raised by `DRAW_RECT` (R176, U7). Safe. -/
  | noFrameBuffer
  /-- Raised by `BRING_UP` (R190, U8). Safe. -/
  | bringUpTwice
  deriving DecidableEq, Repr

/-- R14: the four ways an operation ends, each but `refuse` with the state it leaves, and the
model's own fault. -/
inductive OpOut where
  | ok (v : Value) (s : State)
  | err (e : Err) (s : State)
  | refuse (r : Refusal)
  | stuck (s : State)
  | fault (f : Fault)
  deriving DecidableEq, Repr

end Sys2Proof.Machine
end

