-- ==== Sys2Proof/Machine/Operands.lean ====
section
/-! DEFINITION. Operand and data forms: bits on the wire (R65, R126), pixel fields (R66), pin
map and handle validity (R44, R166), the rectangle's bounds, addresses and rows (R60, R174,
R175, R177), and the totals and phases of the timing (R106, R181). -/

namespace Sys2Proof.Machine

/-! ## Serial bits -/

/-- R65, R126: shift a register of `n` bits out, most significant bit first: each pulse carries
bit `n - 1`, then the next lower one. -/
def shiftOut (u : Unit9) : Nat → List Bool
  | 0 => []
  | n + 1 => u.getLsbD n :: shiftOut u n

/-- R126: the nine bits of a frame in the order of the clock pulses. -/
def wireBits (u : Unit9) : List Bool := shiftOut u Config.serTxnCommandBits

/-- R126, R91: what the panel controller takes a frame for. -/
inductive FrameKind where
  | command (b : Byte)
  | value (b : Byte)
  deriving DecidableEq, Repr

/-- R126: a frame whose first bit is 0 is a `CMD` frame, one whose first bit is 1 a `DATA` frame. -/
def frameKind (u : Unit9) : FrameKind :=
  if unitRole u then .value (unitByte u) else .command (unitByte u)

/-- R126: one serial transaction: its type and the length it gives its command phase (R8
`SER_TXN_TYPE`), the select line asserted around the frame, the clock rate, and the lengths of
its other phases (R98: no address phase and no data phase). -/
structure Transaction where
  txnType     : TxnType
  commandBits : Nat
  bus         : Xv BusId
  select      : Xv PinId
  clockHz     : Xv Nat
  mode        : Xv Nat
  command     : List Bool
  addressBits : Nat
  dummyBits   : Nat
  dataBits    : Nat
  deriving DecidableEq, Repr

/-- R126: the transaction that carries a unit, from the latched configuration (R122). -/
def transactionOf (s : State) (u : Unit9) : Transaction where
  txnType     := Config.serTxnType
  commandBits := Config.serTxnCommandBits
  bus         := s.tBus
  select      := s.tSelect
  clockHz     := s.tClockHz
  mode        := s.tMode
  command     := wireBits u
  addressBits := 0
  dummyBits   := 0
  dataBits    := 0

/-! ## Pixels -/

/-- R66: red is `p[15:11]`. -/
def red (p : Pixel) : BitVec 5 := p.extractLsb' 11 5

/-- R66: green is `p[10:5]`. -/
def green (p : Pixel) : BitVec 6 := p.extractLsb' 5 6

/-- R66: blue is `p[4:0]`. -/
def blue (p : Pixel) : BitVec 5 := p.extractLsb' 0 5

/-! ## Pins and handles -/

/-- R44: a handle is valid when its pin is an output of the block now. -/
def handleValid (P : Params) (s : State) (h : PinId) : Bool :=
  (h == P.pinShared && s.role == .digitalResetOutput) || (h == P.pinBl && s.blCfg)

/-- R166: a pin map is bad when two entries are equal, or an entry is not a valid pin, or an
entry is the shared pin or the backlight pin. -/
def badPinmap (P : Params) (pinmap : List PinId) : Bool :=
  !decide pinmap.Nodup ||
    pinmap.any fun p => !P.pinValid p || p == P.pinShared || p == P.pinBl

/-! ## Rectangles -/

/-- R177: the bounds test of a rectangle and its pixel list, first failure wins (R208). -/
def boundsError (w h : Nat) (x0 y0 x1 y1 : Int) (pixels : List Pixel) : Option BoundsInfo :=
  if ¬ (0 ≤ x0 ∧ x0 < x1 ∧ x1 ≤ w) then some .badRect
  else if ¬ (0 ≤ y0 ∧ y0 < y1 ∧ y1 ≤ h) then some .badRect
  else if (pixels.length : Int) ≠ (x1 - x0) * (y1 - y0) then some .badLength
  else none

/-- R60: the index of cell `(x, y)` in a buffer of width `w`. -/
def cellIndex (w x y : Nat) : Nat := y * w + x

/-- R175, R178: row `r` of a pixel list for a rectangle of width `n`. -/
def rowOf (pixels : List Pixel) (n r : Nat) : List Pixel := (pixels.drop (r * n)).take n

/-- R104, R167: the bytes a buffer of this resolution needs. -/
def bufferBytes (tc : TimingConfig) : Nat := tc.hRes * tc.vRes * Config.pixelBits / 8

/-! ## The raster -/

/-- R106: pixel clocks per scan line. -/
def lineTotal (tc : TimingConfig) : Nat := tc.hfp + tc.hsyncPw + tc.hbp + tc.hRes

/-- R106: lines per frame. -/
def frameTotal (tc : TimingConfig) : Nat := tc.vfp + tc.vsyncPw + tc.vbp + tc.vRes

/-- R181: the phases of a line and of a frame. -/
inductive Phase where
  | sync
  | backPorch
  /-- The offset within the active phase. -/
  | active (i : Nat)
  | frontPorch
  deriving DecidableEq, Repr

/-- R181: the phase of a counter value, for a sync width, a back porch and a resolution. The
order sync, back porch, active, front porch is the spec's, which marks it as general knowledge
(log entry 18). -/
def phaseOf (sync porch res cnt : Nat) : Phase :=
  if cnt < sync then .sync
  else if cnt < sync + porch then .backPorch
  else if cnt < sync + porch + res then .active (cnt - (sync + porch))
  else .frontPorch

/-- R181: the phase of `HCNT`. -/
def linePhase (tc : TimingConfig) (hcnt : Nat) : Phase := phaseOf tc.hsyncPw tc.hbp tc.hRes hcnt

/-- R181: the phase of `VCNT`. -/
def framePhase (tc : TimingConfig) (vcnt : Nat) : Phase := phaseOf tc.vsyncPw tc.vbp tc.vRes vcnt

/-- R183: the row that the line `VCNT` shows, if it is an active line. -/
def activeRow (tc : TimingConfig) (vcnt : Nat) : Option Nat :=
  match framePhase tc vcnt with
  | .active y => some y
  | _ => none

end Sys2Proof.Machine
end

