-- ==== Sys2Proof/Machine/Ops.lean ====
section
/-! DEFINITION. The named operations over the state: events (R13 `Emit`), X and draws, the frame
buffer's primitives (R62), raising an error (R209), and how an operation's end becomes the
outcome of a step (R14). -/

namespace Sys2Proof.Machine

/-! ## Events -/

/-- R13 `Emit(ev)`: append to the trace, oldest first (R48). -/
def emit (e : Event) (s : State) : State := { s with trace := s.trace ++ [e] }

/-! ## Free values -/

/-- Count one opaque choice as made. -/
def Draws.tick (d : Draws) : Draws := { d with count := d.count + 1 }

/-- R12: the value of an element that may hold `X`. An `X` gives an arbitrary value, a fresh one
at every read. -/
def Draws.read {α : Type} [Inhabited α] (v : Xv α) (d : Draws) : α × Draws :=
  match v with
  | .val a => (a, d)
  | .x => (Config.free α d.count, d.tick)

/-- R9: the environment's draws `ENV_TX_HANG` and `ENV_TX_FAULT` for one transaction. -/
def Draws.nextTx (d : Draws) : TxDraw × Draws :=
  match d.tx with
  | o :: rest => (o, { d with tx := rest })
  | [] => (Config.free TxDraw d.count, d.tick)

/-- The number of pixel clocks that pass at a seam (R20 (c), R79; log entry 7). -/
def Draws.nextClocks (d : Draws) : Nat × Draws :=
  match d.clocks with
  | k :: rest => (k, { d with clocks := rest })
  | [] => (Config.free Nat d.count, d.tick)

/-- Which of the remaining rows comes next (R178, U13; log entry 12). -/
def Draws.nextPick (d : Draws) : Nat × Draws :=
  match d.picks with
  | k :: rest => (k, { d with picks := rest })
  | [] => (Config.free Nat d.count, d.tick)

/-- The state with other draws to come. -/
def setDraws (d : Draws) (s : State) : State := { s with draws := d }

/-- Read an element of the state (R12). -/
def readX {α : Type} [Inhabited α] (v : Xv α) (s : State) : α × State :=
  ((s.draws.read v).1, setDraws (s.draws.read v).2 s)

/-- Draw the outcome of one serial transaction. -/
def drawTx (s : State) : TxDraw × State :=
  (s.draws.nextTx.1, setDraws s.draws.nextTx.2 s)

/-- Draw the number of pixel clocks of a seam. -/
def drawClocks (s : State) : Nat × State :=
  (s.draws.nextClocks.1, setDraws s.draws.nextClocks.2 s)

/-- Draw the choice of a row. -/
def drawPick (s : State) : Nat × State :=
  (s.draws.nextPick.1, setDraws s.draws.nextPick.2 s)

/-! ## The frame buffer -/

/-- The cell list with the pixel of index `a` set, indices strictly rising. -/
def setCell (a : Nat) (p : Pixel) : List (Nat × Pixel) → List (Nat × Pixel)
  | [] => [(a, p)]
  | (b, q) :: rest =>
    if a < b then (a, p) :: (b, q) :: rest
    else if a = b then (a, p) :: rest
    else (b, q) :: setCell a p rest

/-- The pixel of index `a` in a cell list; a cell that is not listed holds `X` (R39, R168). -/
def getCell (a : Nat) : List (Nat × Pixel) → Xv Pixel
  | [] => .x
  | (b, q) :: rest => if a = b then .val q else getCell a rest

/-- What cell `a` of a frame buffer holds. -/
def Memory.cell (m : Memory) (a : Nat) : Xv Pixel := getCell a m.cells

/-- The cell list with consecutive pixels set from index `a` on. -/
def setCells (a : Nat) : List Pixel → List (Nat × Pixel) → List (Nat × Pixel)
  | [], cells => cells
  | p :: ps, cells => setCells (a + 1) ps (setCell a p cells)

/-- Whether the indices of a cell list rise strictly from `lo` on and stay below `size`. -/
def cellsWf (size : Nat) : Nat → List (Nat × Pixel) → Bool
  | _, [] => true
  | lo, (a, _) :: rest => decide (lo ≤ a) && decide (a < size) && cellsWf size (a + 1) rest

/-- The canonical form: indices strictly rising and inside the buffer. No entry equals what an
unlisted cell reads as, since an entry holds a pixel and an unlisted cell holds `X`. -/
def Memory.wf (m : Memory) : Bool := cellsWf m.size 0 m.cells

/-- What cell `a` of the state's frame buffer holds; `X` where there is none. -/
def fbCell (s : State) (a : Nat) : Xv Pixel :=
  match s.fb with
  | none => .x
  | some m => m.cell a

/-- R168: a frame buffer of `n` cells, every cell `X`. -/
def Memory.create (n : Nat) : Memory := ⟨n, []⟩

/-- R62 `MemWrite(a, n, v)`: one atomic write of consecutive cells. Cells that do not exist
fault (log entry 11). -/
def memWrite (a : Nat) (v : List Pixel) (s : State) : Except Fault State :=
  match s.fb with
  | none => .error .frameBufferAccess
  | some m =>
    if a + v.length ≤ m.size then .ok { s with fb := some { m with cells := setCells a v m.cells } }
    else .error .frameBufferAccess

/-- The pixels of `n` consecutive cells; a cell that holds `X` reads as an arbitrary pixel, a
fresh one for each cell (R62, U9). -/
def readCells (m : Memory) (a : Nat) : Nat → Draws → List Pixel × Draws
  | 0, d => ([], d)
  | n + 1, d =>
    let first := d.read (m.cell a)
    let others := readCells m (a + 1) n first.2
    (first.1 :: others.1, others.2)

/-- R62 `MemRead(a, n)`: one atomic read of consecutive cells. -/
def memRead (a n : Nat) (s : State) : Except Fault (List Pixel × State) :=
  match s.fb with
  | none => .error .frameBufferAccess
  | some m =>
    if a + n ≤ m.size then
      .ok ((readCells m a n s.draws).1, setDraws (readCells m a n s.draws).2 s)
    else .error .frameBufferAccess

/-! ## Errors -/

/-- R200: the code of an error kind; 0 is kept for no error. -/
def Err.code : Err → Nat
  | .configError _ => 1
  | .busUnavailable _ => 2
  | .transportError _ => 3
  | .programAborted _ _ => 4
  | .outOfBounds _ => 5

/-- R200: the code of an error latch such as `BU_ERR`; 0 for no error. -/
def errorCode : Option Err → Nat
  | none => 0
  | some e => Err.code e

/-- R13, R209 `raise E(info)`: the operation ends at once with `err(E, info)`. Nothing is saved,
no control is transferred, there is no handler: the state is the one the operation has made so
far, and no operation returns from an error (R213). -/
def raise (e : Err) (s : State) : OpOut := .err e s

/-- R13 `call`: run an operation to completion and go on only after its `ok`. Any other end is
the end of the caller too. -/
def OpOut.call (o : OpOut) (k : State → OpOut) : OpOut :=
  match o with
  | .ok _ s => k s
  | .err e s => .err e s
  | .refuse r => .refuse r
  | .stuck s => .stuck s
  | .fault f => .fault f

/-- Go on after a part of an operation that cannot end the operation but by a machine fault. -/
def afterPart (r : Except Fault State) (k : State → OpOut) : OpOut :=
  match r with
  | .ok s => k s
  | .error f => .fault f

/-- R14, R26: how the end of an operation becomes the outcome of a step. `ok` and `err` return a
result to the controlling thread, which goes on (log entry 8); `refuse` has no result; after
`stuck` the thread makes no further step (R13, R222; log entry 9). -/
def finish : OpOut → Host.Outcome State Fault Refusal
  | .ok v s => .next { s with result := some (.ok v) }
  | .err e s => .next { s with result := some (.err e) }
  | .refuse r => .refused r
  | .stuck s => .next { s with thread := .stuck }
  | .fault f => .fault f

end Sys2Proof.Machine
end

