-- ==== Sys2Proof/Machine/Flags.lean ====
section
/-! DEFINITION. The block has no flags and no condition codes (10_state.md R26). Its status
latches are `PRG_STATE`, `BU_STATE`, `BU_ERR` (R24, R25), and the ghost `PANEL` is a latch of
the spec (R50): this file holds what operations write into them. -/

namespace Sys2Proof.Machine

/-! ## The status latches -/

/-- R137: a `RUN` begins. -/
def startProgram (s : State) : State := { s with prgState := .running, prgPc := 0 }

/-- R137, R22: a step of the program has completed. -/
def advanceProgram (s : State) : State := { s with prgPc := s.prgPc + 1 }

/-- R137, R204: a `SEND` of the program failed; `PRG_PC` keeps the failed step's index. -/
def abortProgram (s : State) : State := { s with prgState := .aborted, panel := .undefined }

/-- R137: every step of the program has completed. -/
def endProgram (s : State) : State := { s with prgState := .done }

/-- R190: a `BRING_UP` begins. -/
def startBringUp (s : State) : State := { s with buState := .running, buStep := 0 }

/-- R190, R23: a step of the bring-up ended `ok`. -/
def advanceBringUp (s : State) : State := { s with buStep := s.buStep + 1 }

/-- R190: a step of the bring-up ended with an error; nothing is undone (R193). -/
def failBringUp (e : Err) (s : State) : State := { s with buState := .failed, buErr := some e }

/-- R190: every step of the bring-up ended `ok`. -/
def endBringUp (s : State) : State := { s with buState := .ready }

/-! ## The ghost -/

/-- R125: a frame completed. Inside a `RUN` the ghost is left to R138 and R141. -/
def panelAfterFrame (s : State) : State :=
  match s.prgState with
  | .running => s
  | _ => { s with panel := .undefined }

/-- R138: the ghost at the start of a `RUN`. -/
def panelAtRunStart (s : State) : State :=
  match s.panel with
  | .reset => { s with panel := .programming }
  | _ => { s with panel := .undefined }

/-- R141: the ghost at the end of a `RUN`. -/
def panelAtRunEnd (s : State) : State :=
  match s.panel with
  | .programming => { s with panel := .programmed }
  | _ => s

/-- R155: the reset line moved outside a complete reset sequence. -/
def panelAfterResetLine (s : State) : State := { s with panel := .unknown }

/-- R157: a complete reset sequence on the shared pin has ended. -/
def panelAfterResetSequence (P : Params) (h : PinId) (s : State) : State :=
  if h = P.pinShared then { s with panel := .reset } else s

end Sys2Proof.Machine
end

