-- ==== Sys2Proof/Machine/Codec.lean ====
section
/-! DEFINITION. The codec (40_codec.md): `ENC_CMD`, `ENC_DATA`, `DEC_UNIT`. Combinational: no
state element is read or written, no event is appended. -/

namespace Sys2Proof.Machine

/-- R110 `ENC_CMD b`. -/
def execEncCmd (b : Byte) (s : State) : Host.Outcome State Fault Refusal :=
  finish (.ok (.unit (unitOf false b)) s)

/-- R111 `ENC_DATA b`. -/
def execEncData (b : Byte) (s : State) : Host.Outcome State Fault Refusal :=
  finish (.ok (.unit (unitOf true b)) s)

/-- R112 `DEC_UNIT u`. -/
def execDecUnit (u : Unit9) (s : State) : Host.Outcome State Fault Refusal :=
  finish (.ok (.decoded (unitRole u) (unitByte u)) s)

end Sys2Proof.Machine
end

