-- ==== Sys2Proof/Machine/Scan.lean ====
section
/-! DEFINITION. The scan-out engine (44_parallel.md R180 to R185) and what the block drives onto
its lines (10_state.md R33): the engine's step, the free number of pixel clocks at a seam, and
the levels of the pixel bus, the sync outputs, the shared pin and the backlight pin. -/

namespace Sys2Proof.Machine

/-! ## The engine's step -/

/-- R182: the next value of `VCNT` at the end of a line. A frame of no lines has no remainder
stated: a free value (log entry 13). -/
def nextLine (frameLines vcnt : Nat) (s : State) : Nat × State :=
  if frameLines = 0 then readX .x s else ((vcnt + 1) % frameLines, s)

/-- The counters set. -/
def setCounters (h v : Nat) (s : State) : State := { s with hcnt := .val h, vcnt := .val v }

/-- The line buffer loaded with a line. -/
def loadLine (px : List Pixel) (s : State) : State := { s with linebuf := .val px }

/-- R182: the counter step from counters that were read as `h` and `v`. -/
def advanceCounters (tc : TimingConfig) (h v : Nat) (s : State) : State :=
  if h + 1 = lineTotal tc then
    let next := nextLine (frameTotal tc) v s
    setCounters 0 next.1 next.2
  else setCounters (h + 1) v s

/-- R183: at the first pixel clock of an active line, row `y` is read in one atomic access. -/
def fetchLine (tc : TimingConfig) (h v : Nat) (s : State) : Except Fault State :=
  if h = 0 then
    match activeRow tc v with
    | none => .ok s
    | some y =>
      match memRead (cellIndex tc.hRes 0 y) tc.hRes s with
      | .error f => .error f
      | .ok (px, s') => .ok (emit (.line y px) (loadLine px s'))
  else .ok s

/-- R180, R182, R183: one pixel clock: the fetch that is due, then the counter step. The engine
takes steps only while `P_STATE = Streaming`. -/
def pixelClock (s : State) : Except Fault State :=
  match s.pState with
  | .streaming =>
    let tc := readX s.tc s
    let h := readX s.hcnt tc.2
    let v := readX s.vcnt h.2
    match fetchLine tc.1 h.1 v.1 v.2 with
    | .error f => .error f
    | .ok s' => .ok (advanceCounters tc.1 h.1 v.1 s')
  | _ => .ok s

/-- `k` pixel clocks. -/
def pixelClocks : Nat → State → Except Fault State
  | 0, s => .ok s
  | k + 1, s =>
    match pixelClock s with
    | .error f => .error f
    | .ok s' => pixelClocks k s'

/-- A seam between two thread events: the engine may have taken any number of steps there
(R20 (c), R79, R143 (e); log entry 7). Without streaming nothing happens. -/
def seam (s : State) : Except Fault State :=
  match s.pState with
  | .streaming =>
    let k := drawClocks s
    pixelClocks k.1 k.2
  | _ => .ok s

/-- Operations one after another with a seam between each two; the first end that is not `ok` is
the end of the sequence (R13 `call`). -/
def inSequence : List (State → OpOut) → State → OpOut
  | [], s => .ok .none s
  | [f], s => f s
  | f :: g :: rest, s =>
    (f s).call fun s' => afterPart (seam s') fun s'' => inSequence (g :: rest) s''

/-! ## The lines the block drives -/

/-- What a line shows: X, a level, or a sync signal of which the spec names only active and
inactive (R185). -/
inductive LineState where
  | x
  | level (l : Level)
  | sync (active : Bool)
  deriving DecidableEq, Repr

/-- The level a latch drives; a latch that holds `X` drives `X` (R33). -/
def latchLine : Xv Level → LineState
  | .x => .x
  | .val l => .level l

/-- R185: the horizontal sync is active exactly while `HCNT < hs`, while streaming. -/
def hsyncLine (s : State) : LineState :=
  match s.pState, s.tc, s.hcnt with
  | .streaming, .val tc, .val h => .sync (decide (h < tc.hsyncPw))
  | _, _, _ => .x

/-- R185: the vertical sync is active exactly while `VCNT < vs`, while streaming. -/
def vsyncLine (s : State) : LineState :=
  match s.pState, s.tc, s.vcnt with
  | .streaming, .val tc, .val v => .sync (decide (v < tc.vsyncPw))
  | _, _, _ => .x

/-- R170, R185: the sync signal the shared pin carries. The spec gives no signal for
`OtherSync`: `X` (log entry 19). -/
def sharedSync (P : Params) (s : State) : LineState :=
  match P.sharedSyncKind with
  | .hSync => hsyncLine s
  | .vSync => vsyncLine s
  | .otherSync => .x

/-- R33: the shared pin is driven to `RST_LEVEL` exactly while its role is the reset output, and
by the sync output exactly while it is a sync signal and the engine streams; else `X`. -/
def sharedPinLine (P : Params) (s : State) : LineState :=
  match s.role with
  | .digitalResetOutput => latchLine s.rstLevel
  | .hardwareSyncSignal => sharedSync P s
  | .unassigned => .x

/-- R33: the backlight pin is driven to `BL_LEVEL` exactly while `BL_CFG = 1`; else `X`. -/
def backlightLine (s : State) : LineState :=
  if s.blCfg then latchLine s.blLevel else .x

/-- R184: the pixel that a line buffer puts on the bus: `LINEBUF[x]` in the active phase of an
active line at `HCNT = hs + hb + x`, else `X`. -/
def busPixel (s : State) : Xv Pixel :=
  match s.pState, s.tc, s.hcnt, s.vcnt, s.linebuf with
  | .streaming, .val tc, .val h, .val v, .val px =>
    match framePhase tc v, linePhase tc h with
    | .active _, .active x =>
      match px[x]? with
      | some p => .val p
      | none => .x
    | _, _ => .x
  | _, _, _, _, _ => .x

/-- R184: the pixel on the bus during the pixel clock that begins now, that is after the line fetch
due at it (R183, log entry 23). `busPixel` of the state itself differs only at `HCNT = 0` of a
timing without sync and back porch, where the fetch is due at the clock of its first pixel. -/
def busPixelAtClock (s : State) : Except Fault (Xv Pixel) :=
  match s.pState, s.tc, s.hcnt, s.vcnt with
  | .streaming, .val tc, .val h, .val v =>
    match fetchLine tc h v s with
    | .error f => .error f
    | .ok s' => .ok (busPixel s')
  | _, _, _, _ => .ok .x

/-- R67, R184: data line `i` carries bit `i` of the pixel on the bus. Where the fetch that is due
has no cell to read (no state that a run reaches, log entry 11) the line is `X`. -/
def dataLine (s : State) (i : Nat) : LineState :=
  match busPixelAtClock s with
  | .ok (.val p) => .level (p.getLsbD i)
  | .ok .x => .x
  | .error _ => .x

/-- R67: the pin that data line `i` leaves the block on. -/
def dataLinePin (s : State) (i : Nat) : Option PinId :=
  match s.pPinmap with
  | .x => none
  | .val pins => pins[i]?

end Sys2Proof.Machine
end

