-- ==== Sys2Proof/Machine/Parallel.lean ====
section
/-! DEFINITION. The parallel interface's operations (44_parallel.md): `P_CONFIGURE`, `P_RESET`,
`P_INIT`, `DRAW_RECT`. -/

namespace Sys2Proof.Machine

/-- R167, R201: the checks of `P_CONFIGURE` after the first one, in order. -/
def configProblem (P : Params) (owner : BusOwner) (tc : TimingConfig) (busWidth : Nat)
    (placement : Placement) (pinmap : List PinId) : Option ConfigInfo :=
  if owner ≠ .free then some .pinConflict
  else if busWidth ≠ 16 then some .badWidth
  else if badPinmap P pinmap then some .badPinMap
  else if P.timingInRange tc = false then some .timingOutOfRange
  else if P.fbCapacity placement < bufferBytes tc then some .bufferTooLarge
  else if P.pclkMaxHz < tc.pclkHz then some .clockTooFast
  else none

/-- R167: the configuration is latched, the frame buffer is created with every cell `X` (R168)
and the bus is claimed. -/
def latchConfiguration (tc : TimingConfig) (busWidth : Nat) (placement : Placement)
    (pinmap : List PinId) (s : State) : State :=
  emit (.busClaim .parallel)
    { s with
      tc         := .val tc
      pWidth     := .val busWidth
      pPlacement := .val placement
      pPinmap    := .val pinmap
      pAlign     := .val Config.xferAlign
      fb         := some (Memory.create (tc.hRes * tc.vRes))
      busOwner   := .parallel }

/-- R169: the shared pin becomes a sync signal, from whatever role it has. -/
def handOffSharedPin (P : Params) (s : State) : State :=
  emit (.role P.pinShared .hardwareSyncSignal) { s with role := .hardwareSyncSignal }

/-- R167, the last lines: the counters and the line buffer are unknown. -/
def enterConfigured (s : State) : State :=
  emit .parConfigured
    { s with hcnt := .x, vcnt := .x, linebuf := .x, pState := .configured }

/-- R167 `P_CONFIGURE`. A pin map without 16 entries is outside the operand's type and refused
(R97). -/
def pConfigureOp (P : Params) (tc : TimingConfig) (busWidth : Nat) (placement : Placement)
    (pinmap : List PinId) (s : State) : OpOut :=
  if pinmap.length ≠ 16 then .refuse .operandOutsideType
  else if s.pState ≠ .unconfigured then .refuse .reconfigure
  else
    match configProblem P s.busOwner tc busWidth placement pinmap with
    | some info => raise (.configError info) s
    | none =>
      .ok .none
        (enterConfigured (handOffSharedPin P (latchConfiguration tc busWidth placement pinmap s)))

/-- R172 `P_RESET`. -/
def pResetOp (s : State) : OpOut :=
  if s.pState ≠ .configured then .refuse .resetOutOfOrder
  else .ok .none (emit .parReset { s with hcnt := .val 0, vcnt := .val 0, pState := .resetDone })

/-- R173 `P_INIT`. -/
def pInitOp (s : State) : OpOut :=
  if s.pState ≠ .resetDone then .refuse .initOutOfOrder
  else .ok .none (emit .streamStart { s with pState := .streaming })

/-- R178: row `r` of the rectangle: one atomic `MemWrite` and its event. -/
def writeRow (w x0 y0 n : Nat) (pixels : List Pixel) (r : Nat) (s : State) : Except Fault State :=
  match memWrite (cellIndex w x0 (y0 + r)) (rowOf pixels n r) s with
  | .error f => .error f
  | .ok s' => .ok (emit (.rowWrite (y0 + r) x0 (rowOf pixels n r)) s')

/-- R178, U13: the row written next is any of those left. With one row left there is no choice
to make. -/
def nextRow (rows : List Nat) (s : State) : Option (Nat × List Nat) × State :=
  match rows with
  | [] => (none, s)
  | [r] => (some (r, []), s)
  | _ =>
    let k := drawPick s
    let j := k.1 % rows.length
    (rows[j]?.map fun r => (r, rows.eraseIdx j), k.2)

/-- R178: write the rows that are left, one after another in any order, with a seam between each
two (R79 (b): a line fetch may fall between two row writes). `fuel` bounds the rows. -/
def writeRows (w x0 y0 n : Nat) (pixels : List Pixel) : Nat → List Nat → State → OpOut
  | 0, _, s => .ok .none s
  | fuel + 1, rows, s =>
    let choice := nextRow rows s
    match choice.1 with
    | none => .ok .none choice.2
    | some (r, []) => afterPart (writeRow w x0 y0 n pixels r choice.2) fun s' => .ok .none s'
    | some (r, r' :: rest) =>
      afterPart (writeRow w x0 y0 n pixels r choice.2) fun s' =>
        afterPart (seam s') fun s'' => writeRows w x0 y0 n pixels fuel (r' :: rest) s''

/-- R178: the copy-in of a rectangle that has passed the bounds test. -/
def copyIn (w x0 y0 x1 y1 : Nat) (pixels : List Pixel) (s : State) : OpOut :=
  writeRows w x0 y0 (x1 - x0) pixels (y1 - y0) (List.range (y1 - y0)) s

/-- R176, R177, R178 `DRAW_RECT`. -/
def drawRectOp (x0 y0 x1 y1 : Int) (pixels : List Pixel) (s : State) : OpOut :=
  if s.pState = .unconfigured then .refuse .noFrameBuffer
  else
    let tc := readX s.tc s
    match boundsError tc.1.hRes tc.1.vRes x0 y0 x1 y1 pixels with
    | some info => raise (.outOfBounds info) tc.2
    | none => copyIn tc.1.hRes x0.toNat y0.toNat x1.toNat y1.toNat pixels tc.2

/-- R167 `P_CONFIGURE tc, bus_width, placement, pinmap`. -/
def execPConfigure (tc : TimingConfig) (busWidth : Nat) (placement : Placement)
    (pinmap : List PinId) (s : State) : Host.Outcome State Fault Refusal :=
  finish (pConfigureOp Config.params tc busWidth placement pinmap s)

/-- R172 `P_RESET`. -/
def execPReset (s : State) : Host.Outcome State Fault Refusal :=
  finish (pResetOp s)

/-- R173 `P_INIT`. -/
def execPInit (s : State) : Host.Outcome State Fault Refusal :=
  finish (pInitOp s)

/-- R176 `DRAW_RECT x0, y0, x1, y1, pixels`. -/
def execDrawRect (x0 y0 x1 y1 : Int) (pixels : List Pixel) (s : State) :
    Host.Outcome State Fault Refusal :=
  finish (drawRectOp x0 y0 x1 y1 pixels s)

end Sys2Proof.Machine
end

