-- ==== Sys2Proof/Machine/Transport.lean ====
section
/-! DEFINITION. The serial transport (41_transport.md): `OPEN`, `SEND`, `CLOSE`, and the wire
frames `CMD` and `DATA`. -/

namespace Sys2Proof.Machine

/-- R121 `OPEN`: the two causes of `BusUnavailable` are tested in the order shown. -/
def openOp (P : Params) (bus : BusId) (clockHz mode : Nat) (selectPin : PinId) (queueDepth : Nat)
    (s : State) : OpOut :=
  if s.busOwner ≠ .free then raise (.busUnavailable .alreadyInUse) s
  else if P.pinValid selectPin = false then raise (.busUnavailable .invalidPin) s
  else
    .ok .none (emit (.busClaim .serial)
      { s with
        busOwner     := .serial
        tState       := .opened
        tBus         := .val bus
        tClockHz     := .val clockHz
        tMode        := .val mode
        tSelect      := .val selectPin
        tQdepth      := .val queueDepth
        tOutstanding := 0 })

/-- R124: a transaction is submitted: the queue counter rises and the shifter is loaded. -/
def submit (u : Unit9) (s : State) : State :=
  { s with tOutstanding := s.tOutstanding + 1, txsr := .val u }

/-- R124: a submitted transaction has ended. -/
def retire (s : State) : State := { s with tOutstanding := s.tOutstanding - 1 }

/-- R124, R203: a transaction failed after it was submitted; what the wire carried is unknown
(U18). -/
def failTransaction (u : Unit9) (cause : TxCause) (s : State) : OpOut :=
  raise (.transportError cause) (emit (.txFault u) { retire s with panel := .undefined })

/-- R124, R125, R126: a transaction completed; the frame was on the wires. -/
def completeTransaction (u : Unit9) (s : State) : OpOut :=
  .ok .none (panelAfterFrame (retire (emit (.frame u) s)))

/-- R124: what the environment makes of a submitted transaction; the hang is tested first. -/
def transact (P : Params) (u : Unit9) (d : TxDraw) (s : State) : OpOut :=
  if d.hang then
    match P.txTimeout with
    | none => .stuck s
    | some _ => failTransaction u .timeout s
  else if d.fault then failTransaction u .deviceFault s
  else completeTransaction u s

/-- R124 `SEND`. One call is one serial transaction of exactly 9 bits (R126); no failed
transaction is tried again (R131). -/
def sendOp (P : Params) (u : Unit9) (s : State) : OpOut :=
  if s.tState ≠ .opened then .refuse .sendOnClosedTransport
  else
    let depth := readX s.tQdepth s
    if depth.1 ≤ s.tOutstanding then raise (.transportError .queueFull) depth.2
    else
      let d := drawTx (submit u depth.2)
      transact P u d.1 d.2

/-- R128 `CLOSE`; the configuration registers keep their values. -/
def closeOp (s : State) : OpOut :=
  if s.tState ≠ .opened then .refuse .closeOnClosedTransport
  else .ok .none (emit .busRelease { s with tState := .closed, busOwner := .free })

/-- R121 `OPEN bus, clock_hz, mode, select_pin, queue_depth`. -/
def execOpenBus (bus : BusId) (clockHz mode : Nat) (selectPin : PinId) (queueDepth : Nat)
    (s : State) : Host.Outcome State Fault Refusal :=
  finish (openOp Config.params bus clockHz mode selectPin queueDepth s)

/-- R124 `SEND u`. -/
def execSend (u : Unit9) (s : State) : Host.Outcome State Fault Refusal :=
  finish (sendOp Config.params u s)

/-- R128 `CLOSE`. -/
def execClose (s : State) : Host.Outcome State Fault Refusal :=
  finish (closeOp s)

/-- R126 `CMD b`: one serial transaction whose first bit is 0 ("One `SEND` is one serial
transaction"; log entry 6). -/
def execCmd (b : Byte) (s : State) : Host.Outcome State Fault Refusal :=
  finish (sendOp Config.params (unitOf false b) s)

/-- R126 `DATA b`: one serial transaction whose first bit is 1 (log entry 6). -/
def execData (b : Byte) (s : State) : Host.Outcome State Fault Refusal :=
  finish (sendOp Config.params (unitOf true b) s)

end Sys2Proof.Machine
end

