-- ==== Sys2Proof/Machine/Program.lean ====
section
/-! DEFINITION. The register program sequencer and the delay primitive (42_program.md): `RUN`,
`DELAY`. -/

namespace Sys2Proof.Machine

/-- R136: one step of the program. -/
inductive ProgramStep where
  | send (u : Unit9)
  | delay (t : Ms)
  deriving DecidableEq, Repr

/-- R136, first part: the frames of every entry of the table, in order. -/
def entrySteps (table : List Entry) : List ProgramStep :=
  table.flatMap fun e => e.frames.map .send

/-- R136, second part: the two closing commands and the two settle delays. -/
def closingSteps (P : Params) : List ProgramStep :=
  [.send (unitOf false P.cmdSleepOut), .delay Config.tSleepOut,
   .send (unitOf false P.cmdDisplayOn), .delay Config.tDisplayOn]

/-- R136 `PROGRAM_STEPS`. -/
def programSteps (P : Params) : List ProgramStep := entrySteps P.regProgram ++ closingSteps P

/-- R136 `PROGRAM_LEN`. -/
def programLen (P : Params) : Nat := (programSteps P).length

/-- R145: the event a completed step appends. -/
def ProgramStep.event : ProgramStep → Event
  | .send u => .frame u
  | .delay t => .wait t

/-- The units of a list of steps that are frames. -/
def sentUnits : List ProgramStep → List Unit9
  | [] => []
  | .send u :: rest => u :: sentUnits rest
  | .delay _ :: rest => sentUnits rest

/-- R143 `DELAY`: at least `t` milliseconds pass with the thread idle (R13 `Wait`, R49). -/
def delayOp (t : Ms) (s : State) : OpOut := .ok .none (emit (.wait t) s)

/-- R140: a `TransportError` of a `SEND` inside `RUN` becomes `ProgramAborted` with the failed
step's index; every other end is the end of the `RUN`. -/
def convertSend (o : OpOut) (k : State → OpOut) : OpOut :=
  match o with
  | .err (.transportError cause) s => raise (.programAborted s.prgPc cause) (abortProgram s)
  | .err e s => .err e s
  | .ok _ s => k s
  | .refuse r => .refuse r
  | .stuck s => .stuck s
  | .fault f => .fault f

/-- R137: the loop over the steps that are left, the first of them the one at `PRG_PC`. -/
def runSteps (P : Params) : List ProgramStep → State → OpOut
  | [], s => .ok .none s
  | .send u :: rest, s => convertSend (sendOp P u s) fun s' => runSteps P rest (advanceProgram s')
  | .delay t :: rest, s => (delayOp t s).call fun s' => runSteps P rest (advanceProgram s')

/-- R137 `RUN`. -/
def runOp (P : Params) (s : State) : OpOut :=
  if s.tState ≠ .opened then .refuse .runOnClosedTransport
  else
    (runSteps P (programSteps P) (panelAtRunStart (startProgram s))).call fun s' =>
      .ok .none (panelAtRunEnd (endProgram s'))

/-- R137 `RUN`. -/
def execRun (s : State) : Host.Outcome State Fault Refusal :=
  finish (runOp Config.params s)

/-- R143 `DELAY t`. -/
def execDelay (t : Ms) (s : State) : Host.Outcome State Fault Refusal :=
  finish (delayOp t s)

end Sys2Proof.Machine
end

