-- ==== Sys2Proof/Machine/PinMux.lean ====
section
/-! DEFINITION. The GPIO reset-sequencer and pin-role multiplexer (43_pinmux.md):
`CONFIGURE_OUTPUT`, `SET_LEVEL`, `TIMED_RESET_SEQUENCE`. -/

namespace Sys2Proof.Machine

/-- R152 `CONFIGURE_OUTPUT`. -/
def configureOutputOp (P : Params) (pin : PinId) (s : State) : OpOut :=
  if pin = P.pinShared then
    match s.role with
    | .hardwareSyncSignal => raise (.configError .pinOwnedByTimingGenerator) s
    | .unassigned =>
      .ok (.handle P.pinShared)
        (emit (.role P.pinShared .digitalResetOutput) { s with role := .digitalResetOutput })
    | .digitalResetOutput => .ok (.handle P.pinShared) s
  else if pin = P.pinBl then .ok (.handle P.pinBl) { s with blCfg := true }
  else .refuse .pinOutsideBlock

/-- R154 `SET_LEVEL`; on the shared pin R155 follows. -/
def setLevelOp (P : Params) (h : PinId) (level : Level) (s : State) : OpOut :=
  if h = P.pinShared then
    match s.role with
    | .hardwareSyncSignal => raise (.configError .pinOwnedByTimingGenerator) s
    | .unassigned => .refuse .handleNotConfigured
    | .digitalResetOutput =>
      .ok .none
        (panelAfterResetLine (emit (.level P.pinShared level) { s with rstLevel := .val level }))
  else if h = P.pinBl then
    if s.blCfg then .ok .none (emit (.level P.pinBl level) { s with blLevel := .val level })
    else .refuse .handleNotConfigured
  else .refuse .pinOutsideBlock

/-- R156: the six calls of the reset sequence. -/
def resetCalls (P : Params) (h : PinId) : List (State → OpOut) :=
  [setLevelOp P h true, delayOp Config.tRstHigh1,
   setLevelOp P h false, delayOp Config.tRstLow,
   setLevelOp P h true, delayOp Config.tRstHigh2]

/-- R156 `TIMED_RESET_SEQUENCE`; at its end R157. -/
def timedResetOp (P : Params) (h : PinId) (s : State) : OpOut :=
  (inSequence (resetCalls P h) s).call fun s' => .ok .none (panelAfterResetSequence P h s')

/-- R152 `CONFIGURE_OUTPUT pin`. -/
def execConfigureOutput (pin : PinId) (s : State) : Host.Outcome State Fault Refusal :=
  finish (configureOutputOp Config.params pin s)

/-- R154 `SET_LEVEL h, level`. -/
def execSetLevel (h : PinId) (level : Level) (s : State) : Host.Outcome State Fault Refusal :=
  finish (setLevelOp Config.params h level s)

/-- R156 `TIMED_RESET_SEQUENCE h`. -/
def execTimedResetSequence (h : PinId) (s : State) : Host.Outcome State Fault Refusal :=
  finish (timedResetOp Config.params h s)

end Sys2Proof.Machine
end

