-- ==== Sys2Proof/Machine/Orchestrator.lean ====
section
/-! DEFINITION. The master sequencer (45_orchestrator.md): `BRING_UP`. -/

namespace Sys2Proof.Machine

/-- R191: the eleven steps, index `BU_STEP`. -/
def bringUpTable (P : Params) : List (State → OpOut) :=
  [configureOutputOp P P.pinBl,
   configureOutputOp P P.pinShared,
   setLevelOp P P.pinBl (!P.blOnLevel),
   timedResetOp P P.pinShared,
   openOp P P.serBus Config.serClockHz Config.serMode P.pinSelect Config.serQueueDepth,
   runOp P,
   closeOp,
   pConfigureOp P Config.timing Config.parWidth Config.fbPlacement P.dataPinMap,
   pResetOp,
   pInitOp,
   setLevelOp P P.pinBl P.blOnLevel]

/-- R190: what a step's end does to the sequencer. An error is latched and passed on unchanged. -/
def afterStep (o : OpOut) (k : State → OpOut) : OpOut :=
  match o with
  | .ok _ s => k (advanceBringUp s)
  | .err e s => raise e (failBringUp e s)
  | .refuse r => .refuse r
  | .stuck s => .stuck s
  | .fault f => .fault f

/-- R190, R192: the loop over the steps that are left, the first of them the one at `BU_STEP`,
with a seam between each two (once streaming has begun the engine runs beside the thread). -/
def bringUpSteps : List (State → OpOut) → State → OpOut
  | [], s => .ok .none s
  | [f], s => afterStep (f s) fun s' => .ok .none s'
  | f :: g :: rest, s =>
    afterStep (f s) fun s' => afterPart (seam s') fun s'' => bringUpSteps (g :: rest) s''

/-- R190 `BRING_UP`. -/
def bringUpOp (P : Params) (s : State) : OpOut :=
  if s.buState ≠ .idle then .refuse .bringUpTwice
  else
    (bringUpSteps (bringUpTable P) (startBringUp s)).call fun s' => .ok .none (endBringUp s')

/-- R190 `BRING_UP`. -/
def execBringUp (s : State) : Host.Outcome State Fault Refusal :=
  finish (bringUpOp Config.params s)

end Sys2Proof.Machine
end

