-- ==== Sys2Proof/Machine/Dispatch.lean ====
section
/-! DEFINITION. One arm per constructor of `Instr`, each a direct call of the instruction's
meaning. -/

namespace Sys2Proof.Machine

def exec (i : Instr) (s : State) : Host.Outcome State Fault Refusal :=
  match i with
  | .encCmd b => Sys2Proof.Machine.execEncCmd b s
  | .encData b => Sys2Proof.Machine.execEncData b s
  | .decUnit u => Sys2Proof.Machine.execDecUnit u s
  | .openBus bus clk mode sel depth => Sys2Proof.Machine.execOpenBus bus clk mode sel depth s
  | .send u => Sys2Proof.Machine.execSend u s
  | .close => Sys2Proof.Machine.execClose s
  | .run => Sys2Proof.Machine.execRun s
  | .delay t => Sys2Proof.Machine.execDelay t s
  | .configureOutput pin => Sys2Proof.Machine.execConfigureOutput pin s
  | .setLevel h level => Sys2Proof.Machine.execSetLevel h level s
  | .timedResetSequence h => Sys2Proof.Machine.execTimedResetSequence h s
  | .pConfigure tc width placement pinmap => Sys2Proof.Machine.execPConfigure tc width placement pinmap s
  | .pReset => Sys2Proof.Machine.execPReset s
  | .pInit => Sys2Proof.Machine.execPInit s
  | .drawRect x0 y0 x1 y1 px => Sys2Proof.Machine.execDrawRect x0 y0 x1 y1 px s
  | .bringUp => Sys2Proof.Machine.execBringUp s
  | .cmd b => Sys2Proof.Machine.execCmd b s
  | .data b => Sys2Proof.Machine.execData b s

end Sys2Proof.Machine
end

