-- ==== Sys2Proof/Machine/Fetch.lean ====
section
/-! DEFINITION. How the controlling thread comes by its next operation. The block fetches nothing
from memory (70_reset_and_hazards.md R232): the host issues operations one at a time (R77), and
the state's `program` holds those it has still to issue (log entry 4). -/

namespace Sys2Proof.Machine

/-- The next operation and the state with it taken off the list. -/
def fetch (s : State) : Option (CodeWord × State) :=
  match s.program with
  | [] => none
  | c :: rest => some (c, { s with program := rest })

/-- A step in which the thread does nothing: one pixel clock, if the engine streams (R180). -/
def idleStep (s : State) : Host.Outcome State Fault Refusal :=
  match pixelClock s with
  | .ok s' => .next s'
  | .error f => .fault f

/-- The seam before an operation, and the operation. -/
def issue (run : State → Host.Outcome State Fault Refusal) (s : State) :
    Host.Outcome State Fault Refusal :=
  match seam s with
  | .ok s' => run s'
  | .error f => .fault f

/-- Place one coded operation where the next step takes its operation from. -/
def loadNext (c : CodeWord) (s : State) : State :=
  { s with program := c :: s.program, thread := .running }

end Sys2Proof.Machine
end

