-- ==== Sys2Proof/Machine/Step.lean ====
section
/-! DEFINITION. One step of the machine: the engine alone where the thread is stuck or has no
operation to issue, else the seam before the next operation and that operation, whole. -/

namespace Sys2Proof.Machine

/-- R20, R77, R180, R222 (log entries 4, 7, 9, 22). -/
def step (s : State) : Host.Outcome State Fault Refusal :=
  match s.thread with
  | .stuck => idleStep s
  | .running =>
    match fetch s with
    | none => idleStep s
    | some (c, s1) =>
      match decode c with
      | .error e => .refused (.undecodable e)
      | .ok i => issue (exec i) s1

/-- The state with the operation of a table word placed where the next step takes it from, and
with a thread that can take it. -/
def State.withFetchWord (s : State) (nbits w : Nat) : State := loadNext (tableWord nbits w) s

end Sys2Proof.Machine
end

