-- ==== Sys2Proof/Safety.lean ====
section
/-! DEFINITION. The terms claims are stated in: what a trace shows, and the invariant that holds
in every state a run from reset reaches. -/

namespace Sys2Proof.Machine

/-! ## What a trace shows -/

/-- R49: the elapsed wait of a part of the trace, the sum of its `Wait` events. -/
def elapsedWait : List Event → Ms
  | [] => 0
  | .wait t :: rest => t + elapsedWait rest
  | _ :: rest => elapsedWait rest

/-- The units of the completed frames of a trace, in order (R78, R129). -/
def framesOf : List Event → List Unit9
  | [] => []
  | .frame u :: rest => u :: framesOf rest
  | _ :: rest => framesOf rest

/-- The number of `Wait` events of a trace (R105). -/
def waitCount : List Event → Nat
  | [] => 0
  | .wait _ :: rest => waitCount rest + 1
  | _ :: rest => waitCount rest

/-- Whether an event is the engine's. -/
def Event.isLine : Event → Bool
  | .line _ _ => true
  | _ => false

/-- The events of the controlling thread: all but the engine's `Line` events. -/
def threadEvents (tr : List Event) : List Event := tr.filter fun e => !e.isLine

/-- R9: the environment lets the next `n` serial transactions complete. -/
def allComplete : Nat → Draws → Prop
  | 0, _ => True
  | n + 1, d => d.nextTx.1 = ⟨false, false⟩ ∧ allComplete n d.nextTx.2

/-- The draws after `n` serial transactions. -/
def drawsAfter : Nat → Draws → Draws
  | 0, d => d
  | n + 1, d => drawsAfter n d.nextTx.2

/-- The number of frames of a complete `RUN` (R105). -/
def programFrames (P : Params) : Nat := (sentUnits (programSteps P)).length

/-- An outcome without the ghost `PANEL`, which no operation's result depends on (R50). -/
def withoutPanel : Host.Outcome State Fault Refusal → Host.Outcome State Fault Refusal
  | .next s => .next { s with panel := .unknown }
  | .fault f => .fault f
  | .refused r => .refused r

/-- R175, R178: the effect the rules give a rectangle on one cell: inside the rectangle the
pixel of R175, row by row, outside it nothing. -/
def rectPixel (w : Nat) (x0 y0 x1 y1 : Nat) (pixels : List Pixel) (a : Nat) : Option Pixel :=
  if x0 ≤ a % w ∧ a % w < x1 ∧ y0 ≤ a / w ∧ a / w < y1 then
    pixels[(a / w - y0) * (x1 - x0) + (a % w - x0)]?
  else none

/-! ## The invariant -/

/-- R27, R28, R31, R76: the shared wires and the shared pin are each owned by one component. -/
structure OwnershipInv (s : State) : Prop where
  /-- R28: the transport is open if and only if it owns the bus. -/
  openIff     : s.tState = .opened ↔ s.busOwner = .serial
  /-- R27: the parallel interface owns the bus from its configuration on. -/
  parallelIff : s.busOwner = .parallel ↔ s.pState ≠ .unconfigured
  /-- R31, R169: the shared pin is a sync signal from the configuration on. -/
  syncIff     : s.role = .hardwareSyncSignal ↔ s.pState ≠ .unconfigured

/-- R29, R30: the transport's registers. -/
structure TransportInv (s : State) : Prop where
  /-- R29: an open transport has its queue depth latched. -/
  depthLatched : s.tState = .opened → ∃ d, s.tQdepth = .val d
  /-- R30: `T_OUTSTANDING` is at most `T_QDEPTH`. -/
  bounded      : ∀ d, s.tQdepth = .val d → s.tOutstanding ≤ d
  /-- R30: no transaction is outstanding between operations. -/
  idle         : s.thread = .running → s.tOutstanding = 0

/-- R35, R36, R39: what `P_CONFIGURE` latched. -/
structure ConfigInv (P : Params) (s : State) (tc : TimingConfig) (m : Memory) : Prop where
  timing    : s.tc = .val tc
  width     : s.pWidth = .val 16
  align     : s.pAlign = .val Config.xferAlign
  pinmap    : ∃ pins, s.pPinmap = .val pins ∧ pins.length = 16 ∧ badPinmap P pins = false
  placement : ∃ pl, s.pPlacement = .val pl ∧ bufferBytes tc ≤ P.fbCapacity pl
  inRange   : P.timingInRange tc = true
  clock     : tc.pclkHz ≤ P.pclkMaxHz
  /-- R39: the frame buffer exists. -/
  buffer    : s.fb = some m
  /-- R39: it has `h_res * v_res` cells. -/
  size      : m.size = tc.hRes * tc.vRes
  /-- The frame buffer is in its canonical form. -/
  canonical : m.wf = true
  /-- R21: a known line buffer holds one line. -/
  line      : ∀ px, s.linebuf = .val px → px.length = tc.hRes

/-- R37: the counters' ranges. A total of 0 leaves no range (log entry 13). -/
structure CounterInv (tc : TimingConfig) (h v : Nat) : Prop where
  column : 0 < lineTotal tc → h < lineTotal tc
  row    : 0 < frameTotal tc → v < frameTotal tc

/-- R34 to R39: the parallel interface's registers in each of its states. -/
structure ParallelInv (P : Params) (s : State) : Prop where
  /-- R39: the frame buffer does not exist before `P_CONFIGURE`. -/
  absent     : s.pState = .unconfigured → s.fb = none
  configured : s.pState ≠ .unconfigured → ∃ tc m, ConfigInv P s tc m
  /-- R37: unknown until `P_RESET`. -/
  unknown    : s.pState = .configured → s.hcnt = .x ∧ s.vcnt = .x
  /-- R172: zero after `P_RESET`. -/
  zeroed     : s.pState = .resetDone → s.hcnt = .val 0 ∧ s.vcnt = .val 0
  counting   : s.pState = .streaming →
    ∃ tc h v, s.tc = .val tc ∧ s.hcnt = .val h ∧ s.vcnt = .val v ∧ CounterInv tc h v

/-- R22 to R25, R50: the sequencers and the ghost. -/
structure SequencerInv (P : Params) (s : State) : Prop where
  /-- R22. -/
  pcRange   : s.prgPc ≤ programLen P
  /-- R24, R137. -/
  pcDone    : s.prgState = .done → s.prgPc = programLen P
  /-- R23. -/
  stepRange : s.buStep ≤ 11
  /-- R190. -/
  ready     : s.buState = .ready → s.buStep = 11
  /-- R25: the error latch holds an error exactly after a failure. -/
  failed    : s.buState = .failed ↔ s.buErr ≠ none
  /-- R24, R25, R50: a sequencer that runs between two steps belongs to a stuck thread (R222). -/
  program   : s.prgState = .running → s.thread = .stuck
  bringUp   : s.buState = .running → s.thread = .stuck
  panel     : s.panel = .programming → s.thread = .stuck

/-- The invariant of the machine. -/
structure Inv (P : Params) (s : State) : Prop where
  ownership : OwnershipInv s
  transport : TransportInv s
  parallel  : ParallelInv P s
  sequencer : SequencerInv P s

end Sys2Proof.Machine
end

