-- ==== Sys2Proof/Certificates/Slice0/Obligations.lean ====
section
/-! DEFINITION. The statements for the provers. Each is a closed proposition about the model; its
docstring names the rules of spec/ it formalises. `P` is always the hardware's own parameters
`Config.params` unless a statement quantifies over parameters. -/

open Sys2Proof Sys2Proof.Machine

/-! ## Encoding -/

/-- Format H and W: decoding the coded form of a well-formed instruction gives it back. -/
def Obligations.DecodeOfEncode : Prop :=
  ∀ i : Instr, i.wellFormed = true → decode (encode i) = .ok i

/-- Format H and W: each coded instruction that decodes is the coded form of what it decodes to,
so each has one meaning and no two mean the same. -/
def Obligations.EncodeOfDecode : Prop :=
  ∀ (c : CodeWord) (i : Instr), decode c = .ok i → encode i = c ∧ i.wellFormed = true

/-- R101: every operation code that spells no operation is refused, by the decoder and by the
step that would issue it. -/
def Obligations.ReservedCodesRefused : Prop :=
  ∀ (s : State) (op : Nat) (args : List Operand) (rest : List CodeWord),
    (op = 0x00 ∨ (0x04 ≤ op ∧ op ≤ 0x0F) ∨ (0x13 ≤ op ∧ op ≤ 0x1F) ∨ (0x22 ≤ op ∧ op ≤ 0x2F) ∨
      (0x33 ≤ op ∧ op ≤ 0x3F) ∨ (0x44 ≤ op ∧ op ≤ 0x4F) ∨ (0x51 ≤ op ∧ op ≤ 0xFF)) →
    s.thread = .running → s.program = .hostOp op args :: rest →
    decode (.hostOp op args) = .error .reservedCode ∧
      step s = .refused (.undecodable .reservedCode)

/-- R97: an operand outside its type's range is refused and never truncated, whatever the other
operands: each `Byte`, `Unit9` and `Level`, each `Pixel` of a list, and each natural number of
each operation that takes one; and R91: a wire frame of more than 9 bits. -/
def Obligations.OutOfRangeOperandsRefused : Prop :=
  (∀ n : Int, (n < 0 ∨ 256 ≤ n) →
    decode (.hostOp 0x01 [.num n]) = .error .operandRange ∧
    decode (.hostOp 0x02 [.num n]) = .error .operandRange) ∧
  (∀ n : Int, (n < 0 ∨ 512 ≤ n) →
    decode (.hostOp 0x03 [.num n]) = .error .operandRange ∧
    decode (.hostOp 0x11 [.num n]) = .error .operandRange) ∧
  (∀ h n : Int, (h < 0 ∨ n < 0 ∨ 2 ≤ n) →
    decode (.hostOp 0x31 [.num h, .num n]) = .error .operandRange) ∧
  (∀ (x0 y0 x1 y1 : Int) (pixels : List Int), (∃ n ∈ pixels, n < 0 ∨ 65536 ≤ n) →
    decode (.hostOp 0x43 [.num x0, .num y0, .num x1, .num y1, .nums pixels]) =
      .error .operandRange) ∧
  (∀ bus clk mode sel depth : Int, (bus < 0 ∨ clk < 0 ∨ mode < 0 ∨ sel < 0 ∨ depth < 0) →
    decode (.hostOp 0x10 [.num bus, .num clk, .num mode, .num sel, .num depth]) =
      .error .operandRange) ∧
  (∀ n : Int, n < 0 →
    decode (.hostOp 0x21 [.num n]) = .error .operandRange ∧
    decode (.hostOp 0x30 [.num n]) = .error .operandRange ∧
    decode (.hostOp 0x32 [.num n]) = .error .operandRange) ∧
  (∀ (timing pins : List Int) (width placement : Int), timing.length = 9 → pins.length = 16 →
    (∃ n ∈ timing ++ width :: placement :: pins, n < 0) →
    decode (.hostOp 0x40 [.nums timing, .num width, .num placement, .nums pins]) =
      .error .operandRange) ∧
  (∀ u : Nat, 512 ≤ u → decode (.frame u) = .error .unitRange)

/-- Words of several families written out from the spec's encodings decode to their instruction
(R91, R94, R95). -/
def Obligations.SampleWordsDecode : Prop :=
  decodeTableWord 8 0x01 = some (.encCmd 0x00) ∧
  decodeTableWord 8 0x12 = some .close ∧
  decodeTableWord 8 0x20 = some .run ∧
  decodeTableWord 8 0x31 = some (.setLevel 0 false) ∧
  decodeTableWord 8 0x41 = some .pReset ∧
  decodeTableWord 8 0x50 = some .bringUp ∧
  decodeTableWord 16 0x011 = some (.cmd 0x11) ∧
  decodeTableWord 16 0x111 = some (.data 0x11)

/-- R98: a frame stream made of entries reads back into the entries, whatever data frames without
a command (R99) stand before it. -/
def Obligations.FrameStreamReadsBack : Prop :=
  ∀ (stray : List Byte) (entries : List Entry),
    entriesOfFrames (stray.map (unitOf true) ++ entries.flatMap Entry.frames) = entries ∧
    strayData (stray.map (unitOf true) ++ entries.flatMap Entry.frames) = stray

/-! ## The step -/

/-- When the next coded operation decodes to an instruction, the step takes it off the list and
runs `exec` of it, after the seam in which the scan-out engine may have run; without streaming
there is no seam, and with the parallel interface's part of the invariant the seam always leads
to a state. -/
def Obligations.StepRunsDecodedInstruction : Prop :=
  ∀ (s : State) (c : CodeWord) (rest : List CodeWord) (i : Instr),
    s.thread = .running → s.program = c :: rest → decode c = .ok i →
    step s = issue (exec i) { s with program := rest } ∧
    (s.pState ≠ .streaming → step s = exec i { s with program := rest }) ∧
    (∀ P : Params, ParallelInv P s →
      ∃ s1, seam { s with program := rest } = .ok s1 ∧ step s = exec i s1)

/-- A table word placed as the next operation is what the next step runs. -/
def Obligations.TableWordRunsNext : Prop :=
  ∀ (s : State) (nbits w : Nat) (i : Instr), decodeTableWord nbits w = some i →
    step (s.withFetchWord nbits w) = issue (exec i) { s with thread := .running }

/-! ## Reset -/

/-- R52 (the spec's own decision D16): the value of every state element of the spec after
power-on reset, and the two pins' levels. -/
def Obligations.PowerOnResetValues : Prop :=
  State.reset.busOwner = .free ∧ State.reset.tState = .closed ∧
  State.reset.tBus = .x ∧ State.reset.tClockHz = .x ∧ State.reset.tMode = .x ∧
  State.reset.tSelect = .x ∧ State.reset.tQdepth = .x ∧
  State.reset.tOutstanding = 0 ∧ State.reset.txsr = .x ∧
  State.reset.role = .unassigned ∧ State.reset.rstLevel = .x ∧
  State.reset.blCfg = false ∧ State.reset.blLevel = .x ∧
  State.reset.pState = .unconfigured ∧ State.reset.tc = .x ∧
  State.reset.pWidth = .x ∧ State.reset.pPlacement = .x ∧
  State.reset.pPinmap = .x ∧ State.reset.pAlign = .x ∧
  State.reset.fb = none ∧ State.reset.hcnt = .x ∧ State.reset.vcnt = .x ∧
  State.reset.linebuf = .x ∧ State.reset.prgPc = 0 ∧ State.reset.prgState = .idle ∧
  State.reset.buStep = 0 ∧ State.reset.buState = .idle ∧ State.reset.buErr = none ∧
  State.reset.trace = [] ∧ State.reset.panel = .unknown ∧
  (∀ P : Params, sharedPinLine P State.reset = .x) ∧ backlightLine State.reset = .x

/-- The invariant of the machine holds after reset, for all parameters. -/
def Obligations.ResetSatisfiesInvariant : Prop :=
  ∀ P : Params, Inv P State.reset

/-! ## Codec -/

/-- R110, R111, R112: the three codec operations return the unit or the pair and change nothing
else; the unit of a command is its byte, the unit of a data byte is the byte plus 256. -/
def Obligations.CodecOperations : Prop :=
  (∀ (b : Byte) (s : State), ∃ u : Unit9,
    exec (.encCmd b) s = .next { s with result := some (.ok (.unit u)) } ∧
    u.toNat = b.toNat ∧ unitRole u = false ∧ unitByte u = b) ∧
  (∀ (b : Byte) (s : State), ∃ u : Unit9,
    exec (.encData b) s = .next { s with result := some (.ok (.unit u)) } ∧
    u.toNat = 256 + b.toNat ∧ unitRole u = true ∧ unitByte u = b) ∧
  (∀ (u : Unit9) (s : State),
    exec (.decUnit u) s =
      .next { s with result := some (.ok (.decoded (u.getLsbD 8) (u.extractLsb' 0 8))) })

/-- R113: the laws of the codec. -/
def Obligations.CodecLaws : Prop :=
  (∀ b : Byte, unitRole (unitOf false b) = false ∧ unitByte (unitOf false b) = b) ∧
  (∀ b : Byte, unitRole (unitOf true b) = true ∧ unitByte (unitOf true b) = b) ∧
  (∀ u : Unit9, (unitRole u = false → unitOf false (unitByte u) = u) ∧
    (unitRole u = true → unitOf true (unitByte u) = u)) ∧
  (∀ b c : Byte, unitOf false b ≠ unitOf true c) ∧
  (∀ (r : Bool) (b c : Byte), unitOf r b = unitOf r c → b = c)

/-! ## Transport -/

/-- R121: `OPEN` in each of its three cases, the causes tested in order. The case of an invalid
pin is stated for all parameters, of which the hardware's own are one. -/
def Obligations.OpenFollowsRule : Prop :=
  ∀ (bus : BusId) (clk mode : Nat) (sel : PinId) (depth : Nat) (s : State),
    exec (.openBus bus clk mode sel depth) s =
      finish (openOp Config.params bus clk mode sel depth s) ∧
    (s.busOwner ≠ .free →
      exec (.openBus bus clk mode sel depth) s =
        .next { s with result := some (.err (.busUnavailable .alreadyInUse)) }) ∧
    (∀ P : Params, s.busOwner = .free → P.pinValid sel = false →
      finish (openOp P bus clk mode sel depth s) =
        .next { s with result := some (.err (.busUnavailable .invalidPin)) }) ∧
    (s.busOwner = .free → Config.params.pinValid sel = true →
      exec (.openBus bus clk mode sel depth) s =
        .next { s with
          busOwner := .serial, tState := .opened, tBus := .val bus, tClockHz := .val clk,
          tMode := .val mode, tSelect := .val sel, tQdepth := .val depth, tOutstanding := 0,
          trace := s.trace ++ [.busClaim .serial], result := some (.ok .none) })

/-- R124, R125, R126: a `SEND` on an open transport with room in the queue, whose transaction
the environment lets complete, puts one frame on the wires; so do the wire frames. -/
def Obligations.SendCompletes : Prop :=
  ∀ (s : State) (d : Nat), s.tState = .opened → s.tQdepth = .val d → s.tOutstanding < d →
    s.draws.nextTx.1 = ⟨false, false⟩ →
    (∀ u : Unit9, exec (.send u) s =
      .next { s with
        txsr := .val u, trace := s.trace ++ [.frame u],
        panel := if s.prgState = .running then s.panel else .undefined,
        draws := s.draws.nextTx.2, result := some (.ok .none) }) ∧
    (∀ b : Byte, exec (.cmd b) s =
      .next { s with
        txsr := .val (unitOf false b), trace := s.trace ++ [.frame (unitOf false b)],
        panel := if s.prgState = .running then s.panel else .undefined,
        draws := s.draws.nextTx.2, result := some (.ok .none) }) ∧
    (∀ b : Byte, exec (.data b) s =
      .next { s with
        txsr := .val (unitOf true b), trace := s.trace ++ [.frame (unitOf true b)],
        panel := if s.prgState = .running then s.panel else .undefined,
        draws := s.draws.nextTx.2, result := some (.ok .none) })

/-- R124, R203: the failures of a `SEND` on an open transport, for all parameters, of which the
hardware's own are one: a full queue changes nothing; a hang with a time-out and a device fault
leave the unit in `TXSR`, a `TxFault` event and an undefined panel, and the hang is tested
first. The wire frames are the same transaction. -/
def Obligations.SendFailures : Prop :=
  (∀ (s : State) (u : Unit9), exec (.send u) s = finish (sendOp Config.params u s)) ∧
  (∀ (s : State) (b : Byte),
    exec (.cmd b) s = finish (sendOp Config.params (unitOf false b) s) ∧
    exec (.data b) s = finish (sendOp Config.params (unitOf true b) s)) ∧
  ∀ (P : Params) (s : State) (u : Unit9) (d : Nat), s.tState = .opened → s.tQdepth = .val d →
    (d ≤ s.tOutstanding →
      finish (sendOp P u s) =
        .next { s with result := some (.err (.transportError .queueFull)) }) ∧
    (s.tOutstanding < d → s.draws.nextTx.1.hang = true → P.txTimeout ≠ none →
      finish (sendOp P u s) =
        .next { s with
          txsr := .val u, trace := s.trace ++ [.txFault u], panel := .undefined,
          draws := s.draws.nextTx.2,
          result := some (.err (.transportError .timeout)) }) ∧
    (s.tOutstanding < d → s.draws.nextTx.1.hang = false → s.draws.nextTx.1.fault = true →
      finish (sendOp P u s) =
        .next { s with
          txsr := .val u, trace := s.trace ++ [.txFault u], panel := .undefined,
          draws := s.draws.nextTx.2,
          result := some (.err (.transportError .deviceFault)) })

/-- R222, R124, R137 (c), R190 (a): a transaction that never completes, without a time-out. In a
`SEND` the thread is stuck with the transaction outstanding; a `RUN` is stuck with it at the step
of that transaction, every step before it done; a `BRING_UP` is stuck with it at its step 5,
still `Running`, and has not switched the backlight on. Nothing is returned. A `BRING_UP` that is
stuck is so for no other reason. Stated for all parameters (`SendFailures`, `RunAbortTrace` and
`BringUpAborts` say what `exec` makes of them). -/
def Obligations.HungTransactionIsStuck : Prop :=
  (∀ (P : Params) (s : State) (u : Unit9) (d : Nat), s.tState = .opened → s.tQdepth = .val d →
    s.tOutstanding < d → s.draws.nextTx.1.hang = true → P.txTimeout = none →
    finish (sendOp P u s) =
      .next { s with
        tOutstanding := s.tOutstanding + 1, txsr := .val u, draws := s.draws.nextTx.2,
        thread := .stuck }) ∧
  (∀ (P : Params) (s : State) (d n : Nat), s.tState = .opened → s.tQdepth = .val d →
    s.tOutstanding < d → n < programFrames P → allComplete n s.draws →
    (drawsAfter n s.draws).nextTx.1.hang = true → P.txTimeout = none →
    ∃ k u, (programSteps P)[k]? = some (.send u) ∧
      (sentUnits ((programSteps P).take k)).length = n ∧
      finish (runOp P s) =
        .next { s with
          tOutstanding := s.tOutstanding + 1, txsr := .val u,
          draws := drawsAfter (n + 1) s.draws, prgPc := k, prgState := .running,
          panel := if s.panel = .reset then .programming else .undefined,
          trace := s.trace ++ ((programSteps P).take k).map ProgramStep.event,
          thread := .stuck }) ∧
  (∀ (P : Params) (s : State) (n : Nat), P.PinsDistinct → P.pinValid P.pinSelect = true →
    s.buState = .idle → s.busOwner = .free → s.pState = .unconfigured →
    s.role ≠ .hardwareSyncSignal → n < programFrames P → allComplete n s.draws →
    (drawsAfter n s.draws).nextTx.1.hang = true → P.txTimeout = none →
    ∃ t, finish (bringUpOp P s) = .next t ∧ t.thread = .stuck ∧ t.tOutstanding = 1 ∧
      t.blLevel = .val (!P.blOnLevel)) ∧
  (∀ (P : Params) (s t : State), P.PinsDistinct → s.thread = .running →
    finish (bringUpOp P s) = .next t → t.thread = .stuck →
    P.txTimeout = none ∧ t.buState = .running ∧ t.buStep = 5 ∧ t.prgState = .running ∧
      t.buErr = s.buErr ∧ t.result = s.result ∧
      ∃ events, t.trace = s.trace ++ events ∧ .level P.pinBl P.blOnLevel ∉ events)

/-- R128: `CLOSE` of an open transport frees the bus and leaves the configuration registers; of a
closed one it is refused. -/
def Obligations.CloseFollowsRule : Prop :=
  decode (.hostOp 0x12 []) = .ok .close ∧
  ∀ s : State,
    (s.tState = .opened →
      exec .close s =
        .next { s with
          tState := .closed, busOwner := .free, trace := s.trace ++ [.busRelease],
          result := some (.ok .none) }) ∧
    (s.tState = .closed → exec .close s = .refused .closeOnClosedTransport)

/-- R65, R126, R8 `SER_TXN_TYPE`: nine bits, `u[8]` first and `u[0]` last; the first bit says
whether the frame is a `CMD` or a `DATA` frame, and the other eight are the byte. The transaction
that carries them, from the latched configuration, has a command phase of these nine bits, its
length given for this transaction, and no other phase. -/
def Obligations.WireBitOrder : Prop :=
  ∀ (s : State) (u : Unit9),
    (wireBits u).length = 9 ∧
    (∀ k : Nat, k < 9 → (wireBits u)[k]? = some (u.getLsbD (8 - k))) ∧
    (wireBits u)[0]? = some (unitRole u) ∧
    (u.getLsbD 8 = false → frameKind u = .command (unitByte u)) ∧
    (u.getLsbD 8 = true → frameKind u = .value (unitByte u)) ∧
    transactionOf s u =
      { txnType := .variableCommandLength, commandBits := 9, bus := s.tBus, select := s.tSelect,
        clockHz := s.tClockHz, mode := s.tMode, command := wireBits u, addressBits := 0,
        dummyBits := 0, dataBits := 0 }

/-! ## Register program and delay -/

/-- R105, R136: the length of the step list, of its frames and of its waits, for every table. -/
def Obligations.ProgramLengths : Prop :=
  ∀ P : Params,
    programLen P = (P.regProgram.map fun e => 1 + e.data.length).sum + 4 ∧
    programFrames P = (P.regProgram.map fun e => 1 + e.data.length).sum + 2 ∧
    waitCount ((programSteps P).map ProgramStep.event) = 2

/-- R137, R145: a `RUN` on an open transport with room in the queue, whose transactions the
environment lets complete, appends exactly the rendering of `PROGRAM_STEPS` and ends `ok`. -/
def Obligations.RunSendsWholeProgram : Prop :=
  ∀ (s : State) (d : Nat), s.tState = .opened → s.tQdepth = .val d → s.tOutstanding < d →
    allComplete (programFrames Config.params) s.draws →
    exec .run s =
      .next { s with
        txsr := .val (unitOf false Config.params.cmdDisplayOn),
        prgPc := programLen Config.params, prgState := .done,
        panel := if s.panel = .reset then .programmed else .undefined,
        trace := s.trace ++ (programSteps Config.params).map ProgramStep.event,
        draws := drawsAfter (programFrames Config.params) s.draws,
        result := some (.ok .none) }

/-- R146, R204: a `RUN` that ends with `ProgramAborted((k, cause))` has done exactly the first
`k` steps, and step `k` is a `Send` of which the trace holds a `TxFault` unless the queue was
full. Stated for all parameters; `exec .run` is the case of the hardware's own. -/
def Obligations.RunAbortTrace : Prop :=
  (∀ s : State, exec .run s = finish (runOp Config.params s)) ∧
  ∀ (P : Params) (s t : State) (k : Nat) (cause : TxCause),
    finish (runOp P s) = .next t → t.thread = .running →
    t.result = some (.err (.programAborted k cause)) →
    ∃ u, (programSteps P)[k]? = some (.send u) ∧
      t.trace = s.trace ++ ((programSteps P).take k).map ProgramStep.event ++
        (if cause = .queueFull then [] else [.txFault u]) ∧
      t.prgPc = k ∧ t.prgState = .aborted ∧ t.panel = .undefined

/-- R140: a `RUN` that returns ends `ok` or with `ProgramAborted`, never with the
`TransportError` of its `SEND`; for all parameters. -/
def Obligations.RunRaisesOnlyProgramAborted : Prop :=
  ∀ (P : Params) (s t : State), finish (runOp P s) = .next t → t.thread = .running →
    t.result = some (.ok .none) ∨
      ∃ k cause, t.result = some (.err (.programAborted k cause)) ∧ k < programLen P

/-- R142, R145: a `RUN` that returns `ok` has appended exactly `PROGRAM_STEPS` with each `Send` a
`Frame` and each `Delay` a `Wait`, the count of its frames and its last four events are those of
the rule, and it leaves the panel programmed exactly if it began after a reset; any other `RUN`
that returns leaves the panel undefined; for all parameters. -/
def Obligations.RunTraceAndReplay : Prop :=
  ∀ (P : Params) (s t : State), finish (runOp P s) = .next t → t.thread = .running →
    (t.result = some (.ok .none) →
      ∃ events, t.trace = s.trace ++ events ∧
        events = (programSteps P).map ProgramStep.event ∧
        (framesOf events).length = (P.regProgram.map fun e => 1 + e.data.length).sum + 2 ∧
        (∃ front, events = front ++
          [.frame (unitOf false P.cmdSleepOut), .wait 120,
           .frame (unitOf false P.cmdDisplayOn), .wait 20]) ∧
        t.panel = if s.panel = .reset then .programmed else .undefined) ∧
    (t.result ≠ some (.ok .none) → t.panel = .undefined)

/-- R143: `DELAY` appends its wait and changes nothing else. -/
def Obligations.DelayAppendsWait : Prop :=
  ∀ (t : Ms) (s : State),
    exec (.delay t) s =
      .next { s with trace := s.trace ++ [.wait t], result := some (.ok .none) }

/-! ## Pin multiplexer -/

/-- R152: `CONFIGURE_OUTPUT` in each of its cases. -/
def Obligations.ConfigureOutputFollowsRule : Prop :=
  ∀ s : State,
    (s.role = .unassigned →
      exec (.configureOutput Config.params.pinShared) s =
        .next { s with
          role := .digitalResetOutput,
          trace := s.trace ++ [.role Config.params.pinShared .digitalResetOutput],
          result := some (.ok (.handle Config.params.pinShared)) }) ∧
    (s.role = .digitalResetOutput →
      exec (.configureOutput Config.params.pinShared) s =
        .next { s with result := some (.ok (.handle Config.params.pinShared)) }) ∧
    (s.role = .hardwareSyncSignal →
      exec (.configureOutput Config.params.pinShared) s =
        .next { s with result := some (.err (.configError .pinOwnedByTimingGenerator)) }) ∧
    exec (.configureOutput Config.params.pinBl) s =
      .next { s with blCfg := true, result := some (.ok (.handle Config.params.pinBl)) } ∧
    (∀ pin : PinId, pin ≠ Config.params.pinShared → pin ≠ Config.params.pinBl →
      exec (.configureOutput pin) s = .refused .pinOutsideBlock)

/-- R154, R155: `SET_LEVEL` in each of its cases. -/
def Obligations.SetLevelFollowsRule : Prop :=
  ∀ (s : State) (l : Level),
    (s.role = .digitalResetOutput →
      exec (.setLevel Config.params.pinShared l) s =
        .next { s with
          rstLevel := .val l, panel := .unknown,
          trace := s.trace ++ [.level Config.params.pinShared l],
          result := some (.ok .none) }) ∧
    (s.role = .hardwareSyncSignal →
      exec (.setLevel Config.params.pinShared l) s =
        .next { s with result := some (.err (.configError .pinOwnedByTimingGenerator)) }) ∧
    (s.role = .unassigned →
      exec (.setLevel Config.params.pinShared l) s = .refused .handleNotConfigured) ∧
    (s.blCfg = true →
      exec (.setLevel Config.params.pinBl l) s =
        .next { s with
          blLevel := .val l, trace := s.trace ++ [.level Config.params.pinBl l],
          result := some (.ok .none) }) ∧
    (s.blCfg = false →
      exec (.setLevel Config.params.pinBl l) s = .refused .handleNotConfigured) ∧
    (∀ pin : PinId, pin ≠ Config.params.pinShared → pin ≠ Config.params.pinBl →
      exec (.setLevel pin l) s = .refused .pinOutsideBlock)

/-- R44, R154: `SET_LEVEL` ends `ok` exactly on a handle that is valid at its use. -/
def Obligations.LevelSetExactlyThroughValidHandle : Prop :=
  ∀ (s : State) (h : PinId) (l : Level),
    (∃ t, exec (.setLevel h l) s = .next t ∧ t.result = some (.ok .none)) ↔
      handleValid Config.params s h = true

/-- R156, R157: `TIMED_RESET_SEQUENCE` in each of its cases. While the engine does not stream it
makes exactly six events, 160 ms of waits, and the ghost; its error and its refusals are those of
its first `SET_LEVEL`, in every state of the parallel interface, streaming too (V5.13). -/
def Obligations.ResetSequenceFollowsRule : Prop :=
  ∀ s : State,
    (s.pState ≠ .streaming → s.role = .digitalResetOutput →
      exec (.timedResetSequence Config.params.pinShared) s =
        .next { s with
          rstLevel := .val true, panel := .reset,
          trace := s.trace ++
            [.level Config.params.pinShared true, .wait 10,
             .level Config.params.pinShared false, .wait 50,
             .level Config.params.pinShared true, .wait 100],
          result := some (.ok .none) }) ∧
    (s.pState ≠ .streaming → s.blCfg = true →
      exec (.timedResetSequence Config.params.pinBl) s =
        .next { s with
          blLevel := .val true,
          trace := s.trace ++
            [.level Config.params.pinBl true, .wait 10,
             .level Config.params.pinBl false, .wait 50,
             .level Config.params.pinBl true, .wait 100],
          result := some (.ok .none) }) ∧
    (s.role = .hardwareSyncSignal →
      exec (.timedResetSequence Config.params.pinShared) s =
        .next { s with result := some (.err (.configError .pinOwnedByTimingGenerator)) }) ∧
    (s.role = .unassigned →
      exec (.timedResetSequence Config.params.pinShared) s = .refused .handleNotConfigured) ∧
    (s.blCfg = false →
      exec (.timedResetSequence Config.params.pinBl) s = .refused .handleNotConfigured) ∧
    (∀ pin : PinId, pin ≠ Config.params.pinShared → pin ≠ Config.params.pinBl →
      exec (.timedResetSequence pin) s = .refused .pinOutsideBlock)

/-- R143 (e), R156: on the backlight pin while the engine streams, the sequence still makes its
six events and only the engine's own registers change beside the latch. -/
def Obligations.ResetSequenceWhileStreaming : Prop :=
  ∀ (P : Params) (s : State), ParallelInv P s → s.pState = .streaming → s.blCfg = true →
    ∃ t, exec (.timedResetSequence Config.params.pinBl) s = .next t ∧
      t = { s with
        blLevel := .val true, result := some (.ok .none),
        hcnt := t.hcnt, vcnt := t.vcnt, linebuf := t.linebuf, trace := t.trace,
        draws := t.draws } ∧
      threadEvents t.trace = threadEvents s.trace ++
        [.level Config.params.pinBl true, .wait 10, .level Config.params.pinBl false, .wait 50,
         .level Config.params.pinBl true, .wait 100]

/-- R33: what drives the shared pin and the backlight pin in each state. -/
def Obligations.LineDrive : Prop :=
  ∀ (P : Params) (s : State),
    (∀ l, s.role = .digitalResetOutput → s.rstLevel = .val l →
      sharedPinLine P s = .level l) ∧
    (s.role = .digitalResetOutput → s.rstLevel = .x → sharedPinLine P s = .x) ∧
    (s.role = .unassigned → sharedPinLine P s = .x) ∧
    (s.role = .hardwareSyncSignal → s.pState ≠ .streaming → sharedPinLine P s = .x) ∧
    (s.role = .hardwareSyncSignal → sharedPinLine P s = sharedSync P s) ∧
    (∀ l, s.blCfg = true → s.blLevel = .val l → backlightLine s = .level l) ∧
    (s.blCfg = true → s.blLevel = .x → backlightLine s = .x) ∧
    (s.blCfg = false → backlightLine s = .x)

/-! ## Parallel interface -/

/-- R167, R168, R169: `P_CONFIGURE` where every check passes. -/
def Obligations.PConfigureCompletes : Prop :=
  ∀ (s : State) (tc : TimingConfig) (pl : Placement) (pins : List PinId),
    s.pState = .unconfigured → s.busOwner = .free → pins.length = 16 →
    badPinmap Config.params pins = false → Config.params.timingInRange tc = true →
    tc.hRes * tc.vRes * 16 / 8 ≤ Config.params.fbCapacity pl →
    tc.pclkHz ≤ Config.params.pclkMaxHz →
    exec (.pConfigure tc 16 pl pins) s =
      .next { s with
        busOwner := .parallel, role := .hardwareSyncSignal, pState := .configured,
        tc := .val tc, pWidth := .val 16, pPlacement := .val pl, pPinmap := .val pins,
        pAlign := .val 64, fb := some ⟨tc.hRes * tc.vRes, []⟩,
        hcnt := .x, vcnt := .x, linebuf := .x,
        trace := s.trace ++
          [.busClaim .parallel, .role Config.params.pinShared .hardwareSyncSignal,
           .parConfigured],
        result := some (.ok .none) }

/-- R201, R208: the errors of `P_CONFIGURE`, tested in order; the first failing test decides and
no state changes. Stated for all parameters; `exec` is the case of the hardware's own. -/
def Obligations.PConfigureErrorOrder : Prop :=
  (∀ (s : State) (tc : TimingConfig) (width : Nat) (pl : Placement) (pins : List PinId),
    exec (.pConfigure tc width pl pins) s =
      finish (pConfigureOp Config.params tc width pl pins s)) ∧
  ∀ (P : Params) (s : State) (tc : TimingConfig) (width : Nat) (pl : Placement)
    (pins : List PinId), s.pState = .unconfigured → pins.length = 16 →
    let fails := fun info => finish (pConfigureOp P tc width pl pins s) =
      .next { s with result := some (.err (.configError info)) }
    (s.busOwner ≠ .free → fails .pinConflict) ∧
    (s.busOwner = .free → width ≠ 16 → fails .badWidth) ∧
    (s.busOwner = .free → width = 16 → badPinmap P pins = true → fails .badPinMap) ∧
    (s.busOwner = .free → width = 16 → badPinmap P pins = false →
      P.timingInRange tc = false → fails .timingOutOfRange) ∧
    (s.busOwner = .free → width = 16 → badPinmap P pins = false →
      P.timingInRange tc = true → P.fbCapacity pl < tc.hRes * tc.vRes * 16 / 8 →
      fails .bufferTooLarge) ∧
    (s.busOwner = .free → width = 16 → badPinmap P pins = false →
      P.timingInRange tc = true → tc.hRes * tc.vRes * 16 / 8 ≤ P.fbCapacity pl →
      P.pclkMaxHz < tc.pclkHz → fails .clockTooFast)

/-- R166: which pin maps are bad. -/
def Obligations.BadPinMaps : Prop :=
  ∀ (P : Params) (pins : List PinId),
    badPinmap P pins = true ↔
      (¬ pins.Nodup ∨ ∃ p ∈ pins, P.pinValid p = false ∨ p = P.pinShared ∨ p = P.pinBl)

/-- R172: `P_RESET` zeroes the counters after `P_CONFIGURE` and is refused in every other
state. -/
def Obligations.PResetFollowsRule : Prop :=
  ∀ s : State,
    (s.pState = .configured →
      exec .pReset s =
        .next { s with
          hcnt := .val 0, vcnt := .val 0, pState := .resetDone,
          trace := s.trace ++ [.parReset], result := some (.ok .none) }) ∧
    (s.pState ≠ .configured → exec .pReset s = .refused .resetOutOfOrder)

/-- R173: `P_INIT` starts streaming after `P_RESET` and is refused in every other state. -/
def Obligations.PInitFollowsRule : Prop :=
  ∀ s : State,
    (s.pState = .resetDone →
      exec .pInit s =
        .next { s with
          pState := .streaming, trace := s.trace ++ [.streamStart],
          result := some (.ok .none) }) ∧
    (s.pState ≠ .resetDone → exec .pInit s = .refused .initOutOfOrder)

/-- R174, R175, R178: a legal rectangle is copied into the frame buffer, every cell inside it and
no other; each row is written once, in some order; nothing else changes but what the engine
itself changes while it streams. -/
def Obligations.DrawRectCopiesIn : Prop :=
  ∀ (P : Params) (s : State) (tc : TimingConfig) (x0 y0 x1 y1 : Nat) (pixels : List Pixel),
    ParallelInv P s → s.pState ≠ .unconfigured → s.tc = .val tc →
    x0 < x1 → x1 ≤ tc.hRes → y0 < y1 → y1 ≤ tc.vRes →
    pixels.length = (x1 - x0) * (y1 - y0) →
    ∃ t, exec (.drawRect x0 y0 x1 y1 pixels) s = .next t ∧
      (∀ a : Nat, fbCell t a =
        match rectPixel tc.hRes x0 y0 x1 y1 pixels a with
        | some p => .val p
        | none => fbCell s a) ∧
      (∃ m, t.fb = some m ∧ m.wf = true ∧ m.size = tc.hRes * tc.vRes) ∧
      t = { s with
        fb := t.fb, result := some (.ok .none), hcnt := t.hcnt, vcnt := t.vcnt,
        linebuf := t.linebuf, trace := t.trace, draws := t.draws } ∧
      (s.pState ≠ .streaming →
        t.hcnt = s.hcnt ∧ t.vcnt = s.vcnt ∧ t.linebuf = s.linebuf) ∧
      ∃ order : List Nat, order.Perm (List.range (y1 - y0)) ∧
        threadEvents t.trace = threadEvents s.trace ++
          order.map fun r => .rowWrite (y0 + r) x0 (rowOf pixels (x1 - x0) r)

/-- R177, R205: a rectangle or a list that breaks the constraints raises `OutOfBounds`, the
rectangle tested before the length, and changes nothing. -/
def Obligations.DrawRectOutOfBounds : Prop :=
  ∀ (s : State) (tc : TimingConfig) (x0 y0 x1 y1 : Int) (pixels : List Pixel),
    s.pState ≠ .unconfigured → s.tc = .val tc →
    (¬ (0 ≤ x0 ∧ x0 < x1 ∧ x1 ≤ tc.hRes ∧ 0 ≤ y0 ∧ y0 < y1 ∧ y1 ≤ tc.vRes) →
      exec (.drawRect x0 y0 x1 y1 pixels) s =
        .next { s with result := some (.err (.outOfBounds .badRect)) }) ∧
    (0 ≤ x0 ∧ x0 < x1 ∧ x1 ≤ tc.hRes ∧ 0 ≤ y0 ∧ y0 < y1 ∧ y1 ≤ tc.vRes →
      (pixels.length : Int) ≠ (x1 - x0) * (y1 - y0) →
      exec (.drawRect x0 y0 x1 y1 pixels) s =
        .next { s with result := some (.err (.outOfBounds .badLength)) })

/-- R73 (c), R79 (b): every line the engine fetches during a `DRAW_RECT` shows its row as it was
before the call or as it is after it, never a mix. -/
def Obligations.LineShowsRowBeforeOrAfter : Prop :=
  ∀ (P : Params) (s t : State) (tc : TimingConfig) (x0 y0 x1 y1 : Int) (pixels : List Pixel),
    ParallelInv P s → s.tc = .val tc →
    exec (.drawRect x0 y0 x1 y1 pixels) s = .next t →
    ∃ events, t.trace = s.trace ++ events ∧
      ∀ (y : Nat) (px : List Pixel), .line y px ∈ events →
        px.length = tc.hRes ∧
        ((∀ (x : Nat) (p : Pixel), x < tc.hRes → fbCell s (y * tc.hRes + x) = .val p →
            px[x]? = some p) ∨
         (∀ (x : Nat) (p : Pixel), x < tc.hRes → fbCell t (y * tc.hRes + x) = .val p →
            px[x]? = some p))

/-- R60: no operation but `DRAW_RECT`, and `P_CONFIGURE` which creates it, touches the frame
buffer (`BRING_UP` issues a `P_CONFIGURE`). -/
def Obligations.FrameBufferWriters : Prop :=
  ∀ (i : Instr) (s t : State), exec i s = .next t →
    (∀ x0 y0 x1 y1 px, i ≠ .drawRect x0 y0 x1 y1 px) →
    (∀ tc w pl pins, i ≠ .pConfigure tc w pl pins) → i ≠ .bringUp →
    t.fb = s.fb

/-- R62: `MemWrite` sets its cells and leaves every other cell; `MemRead` of known cells gives
them back; both keep the canonical form. -/
def Obligations.FrameBufferPrimitives : Prop :=
  ∀ (s : State) (m : Memory) (a : Nat) (v : List Pixel), s.fb = some m → m.wf = true →
    a + v.length ≤ m.size →
    ∃ t, memWrite a v s = .ok t ∧
      (∀ b : Nat, fbCell t b =
        if a ≤ b ∧ b < a + v.length then .val (v.getD (b - a) 0) else fbCell s b) ∧
      (∃ m', t.fb = some m' ∧ m'.wf = true ∧ m'.size = m.size) ∧
      t = { s with fb := t.fb } ∧
      memRead a v.length t = .ok (v, t)

/-- R66: red, green and blue are the fields 15:11, 10:5 and 4:0 and make up the pixel. -/
def Obligations.PixelFields : Prop :=
  (∀ p : Pixel, p.toNat = (red p).toNat * 2048 + (green p).toNat * 32 + (blue p).toNat) ∧
  red 0xF800 = 31 ∧ green 0xF800 = 0 ∧ blue 0xF800 = 0

/-! ## Scan-out engine -/

/-- R182, R183: one pixel clock while streaming, with the thread idle. -/
def Obligations.PixelClockStep : Prop :=
  ∀ (P : Params) (s : State) (tc : TimingConfig) (h v : Nat),
    ParallelInv P s → s.program = [] → s.pState = .streaming →
    s.tc = .val tc → s.hcnt = .val h → s.vcnt = .val v →
    ∃ t, step s = .next t ∧
      t = { s with
        hcnt := t.hcnt, vcnt := t.vcnt, linebuf := t.linebuf, trace := t.trace,
        draws := t.draws } ∧
      (h + 1 = lineTotal tc → t.hcnt = .val 0 ∧
        (0 < frameTotal tc → t.vcnt = .val ((v + 1) % frameTotal tc))) ∧
      (h + 1 ≠ lineTotal tc → t.hcnt = .val (h + 1) ∧ t.vcnt = .val v) ∧
      (∀ y : Nat, h = 0 → y < tc.vRes → v = tc.vsyncPw + tc.vbp + y →
        ∃ px, t.linebuf = .val px ∧ t.trace = s.trace ++ [.line y px] ∧
          px.length = tc.hRes ∧
          ∀ (x : Nat) (p : Pixel), x < tc.hRes → fbCell s (y * tc.hRes + x) = .val p →
            px[x]? = some p) ∧
      ((h ≠ 0 ∨ v < tc.vsyncPw + tc.vbp ∨ tc.vsyncPw + tc.vbp + tc.vRes ≤ v) →
        t.linebuf = s.linebuf ∧ t.trace = s.trace)

/-- R183, R106: one whole frame of pixel clocks from the counters at 0 comes back to them and
fetches every row exactly once, in increasing order. -/
def Obligations.FrameShowsEveryRow : Prop :=
  ∀ (P : Params) (s : State) (tc : TimingConfig), ParallelInv P s → s.pState = .streaming →
    s.tc = .val tc → s.hcnt = .val 0 → s.vcnt = .val 0 →
    0 < lineTotal tc → 0 < frameTotal tc →
    ∃ t rows, pixelClocks (lineTotal tc * frameTotal tc) s = .ok t ∧
      t.hcnt = .val 0 ∧ t.vcnt = .val 0 ∧ t.fb = s.fb ∧
      t.trace = s.trace ++ rows ∧ rows.length = tc.vRes ∧
      ∀ y : Nat, y < tc.vRes → ∃ px, rows[y]? = some (.line y px) ∧ px.length = tc.hRes

/-- R67, R184: data line `i` carries bit `i` of `LINEBUF[x]` in the active phase of an active
line, where `LINEBUF` is what it is during that pixel clock: after the fetch of R183 if one is due
at it, and as it stands otherwise. In every other phase the lines are unknown. The third clause
says what a timing without sync pulse and back porch shows at the clock of a fetch: column 0 of
the line that is fetched, not of the line before it. -/
def Obligations.PixelBusLines : Prop :=
  ∀ (P : Params) (s : State) (tc : TimingConfig) (h v : Nat), ParallelInv P s →
    s.pState = .streaming → s.tc = .val tc → s.hcnt = .val h → s.vcnt = .val v →
    (∃ t, pixelClock s = .ok t ∧ (h ≠ 0 → t.linebuf = s.linebuf) ∧
      ∀ (px : List Pixel) (x : Nat) (p : Pixel) (i : Nat), t.linebuf = .val px → i < 16 →
        x < tc.hRes → h = tc.hsyncPw + tc.hbp + x → tc.vsyncPw + tc.vbp ≤ v →
        v < tc.vsyncPw + tc.vbp + tc.vRes → px[x]? = some p →
        dataLine s i = .level (p.getLsbD i)) ∧
    (∀ (y : Nat) (p : Pixel) (i : Nat), h = 0 → tc.hsyncPw + tc.hbp = 0 → 0 < tc.hRes →
      y < tc.vRes → v = tc.vsyncPw + tc.vbp + y → i < 16 →
      fbCell s (y * tc.hRes) = .val p → dataLine s i = .level (p.getLsbD i)) ∧
    (∀ i : Nat,
      (h < tc.hsyncPw + tc.hbp ∨ tc.hsyncPw + tc.hbp + tc.hRes ≤ h ∨
        v < tc.vsyncPw + tc.vbp ∨ tc.vsyncPw + tc.vbp + tc.vRes ≤ v) →
      dataLine s i = .x)

/-- R185: the two sync outputs while streaming, and which of them the shared pin carries. -/
def Obligations.SyncOutputs : Prop :=
  ∀ (P : Params) (s : State) (tc : TimingConfig) (h v : Nat),
    s.pState = .streaming → s.role = .hardwareSyncSignal →
    s.tc = .val tc → s.hcnt = .val h → s.vcnt = .val v →
    hsyncLine s = .sync (decide (h < tc.hsyncPw)) ∧
    vsyncLine s = .sync (decide (v < tc.vsyncPw)) ∧
    (P.sharedSyncKind = .hSync → sharedPinLine P s = hsyncLine s) ∧
    (P.sharedSyncKind = .vSync → sharedPinLine P s = vsyncLine s)

/-- R181 with the numbers of R8: sync 0 to 9, back porch 10 to 49, active 50 to 529, front porch
530 to 537, on both axes. -/
def Obligations.PhaseWindows : Prop :=
  ∀ n : Nat, n < 538 →
    linePhase Config.timing n = framePhase Config.timing n ∧
    (n ≤ 9 → linePhase Config.timing n = .sync) ∧
    (10 ≤ n → n ≤ 49 → linePhase Config.timing n = .backPorch) ∧
    (50 ≤ n → n ≤ 529 → linePhase Config.timing n = .active (n - 50)) ∧
    (530 ≤ n → linePhase Config.timing n = .frontPorch)

/-! ## Master sequencer -/

/-- R190, R191, R194: a first `BRING_UP` (the reset state is one such state) with the bus free,
the parallel interface not configured and the shared pin not a sync signal, of which no
transaction fails, ends `ok` in the state of R194, with the events of the eleven steps in order;
only the engine's own registers, `Line` events and draws are left open. It rests on the
constraints of D27 that the parameters meet (log entry 3). -/
def Obligations.BringUpCompletes : Prop :=
  ∀ s : State, s.buState = .idle → s.busOwner = .free → s.pState = .unconfigured →
    s.role ≠ .hardwareSyncSignal → allComplete (programFrames Config.params) s.draws →
    ∃ t, exec .bringUp s = .next t ∧
      t = { s with
        busOwner := .parallel, tState := .closed, tBus := .val Config.params.serBus,
        tClockHz := .val 10000000, tMode := .val 0, tSelect := .val Config.params.pinSelect,
        tQdepth := .val 7, tOutstanding := 0,
        txsr := .val (unitOf false Config.params.cmdDisplayOn),
        role := .hardwareSyncSignal, rstLevel := .val true, blCfg := true,
        blLevel := .val Config.params.blOnLevel, pState := .streaming,
        tc := .val ⟨15000000, 480, 480, 10, 40, 8, 10, 40, 8⟩, pWidth := .val 16,
        pPlacement := .val .externalMemory, pPinmap := .val Config.params.dataPinMap,
        pAlign := .val 64, fb := some ⟨230400, []⟩,
        prgPc := programLen Config.params, prgState := .done,
        buStep := 11, buState := .ready, panel := .programmed, result := some (.ok .none),
        hcnt := t.hcnt, vcnt := t.vcnt, linebuf := t.linebuf, trace := t.trace,
        draws := t.draws } ∧
      threadEvents t.trace = threadEvents s.trace ++
        (if s.role = .unassigned then [.role Config.params.pinShared .digitalResetOutput]
          else []) ++
        [.level Config.params.pinBl (!Config.params.blOnLevel),
         .level Config.params.pinShared true, .wait 10,
         .level Config.params.pinShared false, .wait 50,
         .level Config.params.pinShared true, .wait 100,
         .busClaim .serial] ++
        (programSteps Config.params).map ProgramStep.event ++
        [.busRelease, .busClaim .parallel,
         .role Config.params.pinShared .hardwareSyncSignal, .parConfigured, .parReset,
         .streamStart, .level Config.params.pinBl Config.params.blOnLevel]

/-- R190, R193: a `BRING_UP` that ends with an error has latched it, stopped at the step that
raised it (only steps 1, 4, 5 and 7 can), and appended no event that switches the backlight on
(`HungTransactionIsStuck` has the `BRING_UP` that is stuck). Stated for all
parameters with the pins of R150; `exec .bringUp` is the case of the hardware's own. -/
def Obligations.BringUpAborts : Prop :=
  (∀ s : State, exec .bringUp s = finish (bringUpOp Config.params s)) ∧
  ∀ (P : Params) (s t : State) (e : Err), P.PinsDistinct →
    finish (bringUpOp P s) = .next t → t.thread = .running → t.result = some (.err e) →
    t.buState = .failed ∧ t.buErr = some e ∧
    ((t.buStep = 1 ∧ e = .configError .pinOwnedByTimingGenerator) ∨
     (t.buStep = 4 ∧ ∃ info, e = .busUnavailable info) ∨
     (t.buStep = 5 ∧ ∃ k cause, e = .programAborted k cause) ∨
     (t.buStep = 7 ∧ ∃ info, e = .configError info)) ∧
    ∃ events, t.trace = s.trace ++ events ∧ .level P.pinBl P.blOnLevel ∉ events

/-- R161: in a `BRING_UP` that ends `ok` the backlight is switched on exactly once, as the last
event of the thread and after `StreamStart`; in one that ends with an error or is stuck it is
not switched on at all. For all parameters with the pins of R150. -/
def Obligations.BacklightOnlyAfterStreamStart : Prop :=
  ∀ (P : Params) (s t : State), P.PinsDistinct → s.thread = .running →
    finish (bringUpOp P s) = .next t →
    (t.thread = .running ∧ t.result = some (.ok .none) ∧
      ∃ before lines, t.trace = s.trace ++ before ++ [.streamStart] ++ lines ++
          [.level P.pinBl P.blOnLevel] ∧
        (∀ e ∈ lines, e.isLine = true) ∧ .level P.pinBl P.blOnLevel ∉ before) ∨
    ((t.thread = .stuck ∨ (t.thread = .running ∧ ∃ e, t.result = some (.err e))) ∧
      ∃ events, t.trace = s.trace ++ events ∧ .level P.pinBl P.blOnLevel ∉ events)

/-- R158: in a `BRING_UP`, however it ends, at least 160 ms of waits come before the first frame
and before the first failed transaction; for all parameters with the pins of R150. -/
def Obligations.ResetWaitsBeforeFirstFrame : Prop :=
  ∀ (P : Params) (s t : State), P.PinsDistinct → finish (bringUpOp P s) = .next t →
    ∃ events, t.trace = s.trace ++ events ∧
      ∀ (before after : List Event) (u : Unit9),
        (events = before ++ .frame u :: after ∨ events = before ++ .txFault u :: after) →
        160 ≤ elapsedWait before

/-- R13, R14 with U3, U6, U7, U8: the uses the spec gives no meaning to are refused by name. -/
def Obligations.RefusedUses : Prop :=
  ∀ s : State,
    (s.tState = .closed → ∀ (u : Unit9) (b : Byte),
      exec (.send u) s = .refused .sendOnClosedTransport ∧
      exec (.cmd b) s = .refused .sendOnClosedTransport ∧
      exec (.data b) s = .refused .sendOnClosedTransport ∧
      exec .run s = .refused .runOnClosedTransport) ∧
    (s.pState ≠ .unconfigured → ∀ tc w pl pins, pins.length = 16 →
      exec (.pConfigure tc w pl pins) s = .refused .reconfigure) ∧
    (s.pState = .unconfigured → ∀ x0 y0 x1 y1 px,
      exec (.drawRect x0 y0 x1 y1 px) s = .refused .noFrameBuffer) ∧
    (s.buState ≠ .idle → exec .bringUp s = .refused .bringUpTwice)

/-! ## The whole machine -/

/-- Every step from a state with the invariant leads to a state with the invariant. -/
def Obligations.StepKeepsInvariant : Prop :=
  ∀ s t : State, Inv Config.params s → step s = .next t → Inv Config.params t

/-- No step from a state with the invariant stops with a fault: no operation and no engine step
touches a frame-buffer cell that does not exist. -/
def Obligations.StepNeverFaults : Prop :=
  ∀ (s : State) (f : Fault), Inv Config.params s → step s ≠ .fault f

/-- R48: the trace is only ever appended to. -/
def Obligations.TraceOnlyGrows : Prop :=
  ∀ s t : State, step s = .next t → ∃ events, t.trace = s.trace ++ events

/-- R27, R31, R34, R35: the hand-offs are one-way: a step leaves the bus with the parallel
interface, the shared pin a sync signal, the interface streaming and its configuration fixed,
once they are so. -/
def Obligations.HandOffsAreOneWay : Prop :=
  ∀ s t : State, OwnershipInv s → step s = .next t →
    (s.busOwner = .parallel → t.busOwner = .parallel) ∧
    (s.role = .hardwareSyncSignal → t.role = .hardwareSyncSignal) ∧
    (s.pState = .streaming → t.pState = .streaming) ∧
    (s.pState ≠ .unconfigured →
      t.pState ≠ .unconfigured ∧ t.tc = s.tc ∧ t.pWidth = s.pWidth ∧
      t.pPlacement = s.pPlacement ∧ t.pPinmap = s.pPinmap ∧ t.pAlign = s.pAlign)

/-- R222, R13: a stuck thread takes no further step; only the engine goes on. -/
def Obligations.StuckThreadStaysStuck : Prop :=
  ∀ (P : Params) (s : State), ParallelInv P s → s.thread = .stuck →
    ∃ t, step s = .next t ∧
      t = { s with
        hcnt := t.hcnt, vcnt := t.vcnt, linebuf := t.linebuf, trace := t.trace,
        draws := t.draws } ∧
      threadEvents t.trace = threadEvents s.trace

/-- R50: no operation's result, and no other state, depends on the ghost `PANEL`. -/
def Obligations.PanelIsAGhost : Prop :=
  ∀ (i : Instr) (s : State) (p : Panel),
    withoutPanel (exec i { s with panel := p }) = withoutPanel (exec i s)

/-- R210: the exact errors leave every state element as it was; only the result is new (and the
choices made in reading an unknown element). `BRING_UP` passes on its step's error after its
earlier steps. -/
def Obligations.ExactErrorsChangeNothing : Prop :=
  ∀ (i : Instr) (s t : State) (e : Err), i ≠ .bringUp → exec i s = .next t →
    t.thread = .running → t.result = some (.err e) →
    ((∃ info, e = .configError info) ∨ (∃ info, e = .busUnavailable info) ∨
      (∃ info, e = .outOfBounds info) ∨ e = .transportError .queueFull) →
    t = { s with result := t.result, draws := t.draws }

/-- R26: an operation that completes returns a result; R200: its error is one of the five kinds
its instruction can raise. -/
def Obligations.ErrorsByInstruction : Prop :=
  ∀ (i : Instr) (s t : State) (e : Err), exec i s = .next t → t.thread = .running →
    t.result = some (.err e) →
    match i with
    | .pConfigure _ _ _ _ | .configureOutput _ | .setLevel _ _ | .timedResetSequence _ =>
      e.code = 1
    | .openBus _ _ _ _ _ => e.code = 2
    | .send _ | .cmd _ | .data _ => e.code = 3
    | .run => e.code = 4
    | .drawRect _ _ _ _ _ => e.code = 5
    | .bringUp => e.code = 1 ∨ e.code = 2 ∨ e.code = 4
    | .encCmd _ | .encData _ | .decUnit _ | .delay _ | .close | .pReset | .pInit => False

/-- R10: the derived constants. -/
def Obligations.DerivedConstants : Prop :=
  Config.hTotal = 538 ∧ Config.vTotal = 538 ∧ Config.frameClocks = 289444 ∧
  Config.fbPixels = 230400 ∧ Config.fbBytes = 460800 ∧ Config.fbBytes = 7200 * Config.xferAlign ∧
  Config.tRstTotal = 160 ∧ Config.unitMax = 511 ∧
  lineTotal Config.timing = Config.hTotal ∧ frameTotal Config.timing = Config.vTotal
end

