-- ==== Sys2Proof/Laws/Ends.lean ====
section
/-! SUPPORT. How an operation can end: a property of each kind of end, and how the named
combinators (`call`, `afterPart`, `inSequence`, `finish`) carry such properties along. -/

namespace Sys2Proof.Machine

/-- What holds of an operation's end: one property for each way to end (R14). -/
def OpOut.Ends (ok : Value → State → Prop) (err : Err → State → Prop) (stuck : State → Prop)
    (refuse : Refusal → Prop) (fault : Fault → Prop) : OpOut → Prop
  | .ok v s => ok v s
  | .err e s => err e s
  | .stuck s => stuck s
  | .refuse r => refuse r
  | .fault f => fault f

/-- A property `p` of every state an operation returns in, a property `w` of every state it is
stuck in; `F` says whether it may fault. -/
def OpOut.Leaves (p w : State → Prop) (F : Prop) (o : OpOut) : Prop :=
  o.Ends (fun _ => p) (fun _ => p) w (fun _ => True) (fun _ => F)

theorem OpOut.Ends.mono {o : OpOut} {k k' : Value → State → Prop} {e e' : Err → State → Prop}
    {w w' : State → Prop} {r r' : Refusal → Prop} {f f' : Fault → Prop}
    (h : o.Ends k e w r f) (hk : ∀ v s, k v s → k' v s) (he : ∀ x s, e x s → e' x s)
    (hw : ∀ s, w s → w' s) (hr : ∀ x, r x → r' x) (hf : ∀ x, f x → f' x) :
    o.Ends k' e' w' r' f' := by
  cases o
  · exact hk _ _ h
  · exact he _ _ h
  · exact hr _ h
  · exact hw _ h
  · exact hf _ h

/-- R13 `call`: the caller goes on from an `ok` and shares every other end. -/
theorem OpOut.Ends.call {o : OpOut} {k : State → OpOut} {p : Value → State → Prop}
    {p' : Value → State → Prop} {e : Err → State → Prop} {w : State → Prop}
    {r : Refusal → Prop} {f : Fault → Prop} (h : o.Ends p e w r f)
    (hk : ∀ v s, p v s → (k s).Ends p' e w r f) : (o.call k).Ends p' e w r f := by
  cases o
  · exact hk _ _ h
  · exact h
  · exact h
  · exact h
  · exact h

theorem OpOut.Leaves.call {o : OpOut} {k : State → OpOut} {p w : State → Prop} {F : Prop}
    (h : o.Leaves p w F) (hk : ∀ s, p s → (k s).Leaves p w F) : (o.call k).Leaves p w F :=
  OpOut.Ends.call h fun _ => hk

/-- Going on after a part that succeeds. -/
theorem afterPart_ends {x : Except Fault State} {k : State → OpOut} {p : Value → State → Prop}
    {e : Err → State → Prop} {w : State → Prop} {r : Refusal → Prop} {f : Fault → Prop}
    (hk : ∀ s, x = .ok s → (k s).Ends p e w r f) (hf : ∀ y, x = .error y → f y) :
    (afterPart x k).Ends p e w r f := by
  cases x with
  | error y => exact hf y rfl
  | ok s => exact hk s rfl

/-- What a step makes of an operation's end (R14, R26). -/
theorem finish_next {o : OpOut} {t : State} (h : finish o = .next t) :
    (∃ v s, o = .ok v s ∧ t = { s with result := some (.ok v) }) ∨
    (∃ e s, o = .err e s ∧ t = { s with result := some (.err e) }) ∨
    (∃ s, o = .stuck s ∧ t = { s with thread := .stuck }) := by
  cases o <;> simp only [finish, Host.Outcome.next.injEq, reduceCtorEq] at h <;> subst h
  · exact .inl ⟨_, _, rfl, rfl⟩
  · exact .inr (.inl ⟨_, _, rfl, rfl⟩)
  · exact .inr (.inr ⟨_, rfl, rfl⟩)

theorem finish_fault {o : OpOut} {f : Fault} (h : finish o = .fault f) : o = .fault f := by
  cases o <;> cases h
  rfl

/-- What holds at every end of an operation, after `finish`. -/
theorem OpOut.Leaves.finish {o : OpOut} {p w q : State → Prop} {F : Prop} {t : State}
    (h : o.Leaves p w F) (ht : finish o = .next t)
    (hp : ∀ s r, p s → q { s with result := some r })
    (hw : ∀ s, w s → q { s with thread := .stuck }) : q t := by
  rcases finish_next ht with ⟨v, s, rfl, rfl⟩ | ⟨e, s, rfl, rfl⟩ | ⟨s, rfl, rfl⟩
  · exact hp _ _ h
  · exact hp _ _ h
  · exact hw _ h

/-- A sequence of operations with seams keeps a property that each operation and each seam
keeps. -/
theorem inSequence_leaves {p w : State → Prop} {F : Prop}
    (hseam : ∀ s t, p s → seam s = .ok t → p t) (hfault : ∀ s f, p s → seam s = .error f → F) :
    ∀ (fs : List (State → OpOut)), (∀ f ∈ fs, ∀ s, p s → (f s).Leaves p w F) →
      ∀ s, p s → (inSequence fs s).Leaves p w F
  | [], _, s, hs => hs
  | [f], hf, s, hs => hf f (by simp) s hs
  | f :: g :: rest, hf, s, hs =>
    (hf f (by simp) s hs).call fun t ht =>
      afterPart_ends
        (fun u hu => inSequence_leaves hseam hfault (g :: rest)
          (fun q hq => hf q (List.mem_cons_of_mem _ hq)) u (hseam t u ht hu))
        (fun y hy => hfault t y ht hy)

end Sys2Proof.Machine
end

