-- ==== Sys2Proof/Laws/Memory.lean ====
section
/-! SUPPORT. The frame buffer's laws: a read after a write, cells a write leaves alone, and that
every operation on it keeps the canonical form. -/

namespace Sys2Proof.Machine

/-- Reading a cell after setting one. -/
theorem getCell_setCell (a b : Nat) (p : Pixel) (cells : List (Nat × Pixel)) :
    getCell b (setCell a p cells) = if b = a then .val p else getCell b cells := by
  induction cells with
  | nil => simp only [setCell, getCell]
  | cons c rest ih =>
    obtain ⟨k, q⟩ := c
    simp only [setCell]
    split
    · simp only [getCell]
    · split
      · next h => subst h; simp only [getCell]; split <;> rfl
      · next h =>
        simp only [getCell, ih]
        split
        · next hb => subst hb; rw [if_neg (by omega)]
        · rfl

/-- Reading a cell after setting consecutive ones. -/
theorem getCell_setCells (v : List Pixel) (a b : Nat) (cells : List (Nat × Pixel)) :
    getCell b (setCells a v cells) =
      if a ≤ b then (match v[b - a]? with | some p => .val p | none => getCell b cells)
      else getCell b cells := by
  induction v generalizing a cells with
  | nil => simp [setCells]
  | cons p ps ih =>
    rw [setCells, ih, getCell_setCell]
    by_cases h1 : a + 1 ≤ b
    · have e : b - a = (b - (a + 1)) + 1 := by omega
      have ne : b ≠ a := by omega
      have le : a ≤ b := by omega
      simp only [if_pos h1, if_pos le, e, List.getElem?_cons_succ, if_neg ne]
    · rw [if_neg h1]
      by_cases h2 : b = a
      · subst h2; simp
      · rw [if_neg h2, if_neg (by omega)]

/-- A cell list that rises from `lo` on rises from any lower index on. -/
theorem cellsWf_mono (size lo lo' : Nat) (cells : List (Nat × Pixel)) (h : lo' ≤ lo)
    (hw : cellsWf size lo cells = true) : cellsWf size lo' cells = true := by
  cases cells with
  | nil => rfl
  | cons c rest =>
    simp only [cellsWf, Bool.and_eq_true, decide_eq_true_eq] at hw ⊢
    exact ⟨⟨by omega, hw.1.2⟩, hw.2⟩

/-- Setting a cell of the buffer keeps the canonical form. -/
theorem cellsWf_setCell (size lo a : Nat) (p : Pixel) (cells : List (Nat × Pixel))
    (hlo : lo ≤ a) (ha : a < size) (hw : cellsWf size lo cells = true) :
    cellsWf size lo (setCell a p cells) = true := by
  induction cells generalizing lo with
  | nil => simp [setCell, cellsWf, hlo, ha]
  | cons c rest ih =>
    obtain ⟨k, q⟩ := c
    simp only [cellsWf, Bool.and_eq_true, decide_eq_true_eq] at hw
    simp only [setCell]
    split
    · simp only [cellsWf, Bool.and_eq_true, decide_eq_true_eq]
      exact ⟨⟨hlo, ha⟩, ⟨⟨by omega, hw.1.2⟩, hw.2⟩⟩
    · split
      · next h =>
        subst h
        simp only [cellsWf, Bool.and_eq_true, decide_eq_true_eq]
        exact ⟨⟨hlo, ha⟩, hw.2⟩
      · simp only [cellsWf, Bool.and_eq_true, decide_eq_true_eq]
        exact ⟨hw.1, ih (k + 1) (by omega) hw.2⟩

/-- Setting consecutive cells of the buffer keeps the canonical form. -/
theorem cellsWf_setCells (size lo a : Nat) (v : List Pixel) (cells : List (Nat × Pixel))
    (hlo : lo ≤ a) (ha : a + v.length ≤ size) (hw : cellsWf size lo cells = true) :
    cellsWf size lo (setCells a v cells) = true := by
  induction v generalizing a cells with
  | nil => exact hw
  | cons p ps ih =>
    simp only [List.length_cons] at ha
    exact ih (a + 1) _ (by omega) (by omega)
      (cellsWf_setCell size lo a p cells hlo (by omega) hw)

/-- R168: a new frame buffer is canonical. -/
theorem create_wf (n : Nat) : (Memory.create n).wf = true := rfl

/-- R168: every cell of a new frame buffer is `X`. -/
theorem create_cell (n a : Nat) : (Memory.create n).cell a = .x := rfl

/-- What `MemWrite` does where it succeeds. -/
theorem memWrite_ok {a : Nat} {v : List Pixel} {s t : State} (h : memWrite a v s = .ok t) :
    ∃ m, s.fb = some m ∧ a + v.length ≤ m.size ∧
      t = { s with fb := some { m with cells := setCells a v m.cells } } := by
  unfold memWrite at h
  split at h
  · cases h
  · next m hm =>
    split at h
    · next hle => cases h; exact ⟨m, hm, hle, rfl⟩
    · cases h

/-- `MemWrite` succeeds inside the buffer. -/
theorem memWrite_eq {a : Nat} {v : List Pixel} {s : State} {m : Memory} (hm : s.fb = some m)
    (hle : a + v.length ≤ m.size) :
    memWrite a v s = .ok { s with fb := some { m with cells := setCells a v m.cells } } := by
  simp only [memWrite, hm, if_pos hle]

/-- `MemWrite` keeps the canonical form. -/
theorem memWrite_wf {a : Nat} {v : List Pixel} {s t : State} (h : memWrite a v s = .ok t)
    (hw : ∀ m, s.fb = some m → m.wf = true) : ∀ m, t.fb = some m → m.wf = true := by
  obtain ⟨m, hm, hle, rfl⟩ := memWrite_ok h
  intro m' hm'
  cases hm'
  exact cellsWf_setCells _ _ _ _ _ (Nat.zero_le a) hle (hw m hm)

/-- Reading a known element. -/
@[simp] theorem read_val {α : Type} [Inhabited α] (a : α) (d : Draws) : d.read (.val a) = (a, d) :=
  rfl

/-- Reading a known element of the state. -/
@[simp] theorem readX_val {α : Type} [Inhabited α] (a : α) (s : State) :
    readX (.val a) s = (a, s) := rfl

/-- Reading cells gives one pixel for each. -/
theorem readCells_length (m : Memory) (n : Nat) : ∀ (a : Nat) (d : Draws),
    (readCells m a n d).1.length = n := by
  induction n with
  | zero => intro a d; rfl
  | succ n ih => intro a d; simp only [readCells, List.length_cons, ih]

/-- A known cell reads as the pixel it holds. -/
theorem readCells_val (m : Memory) (n : Nat) : ∀ (a : Nat) (d : Draws) (i : Nat) (p : Pixel),
    i < n → m.cell (a + i) = .val p → (readCells m a n d).1[i]? = some p := by
  induction n with
  | zero => intro a d i p hi; omega
  | succ n ih =>
    intro a d i p hi hp
    cases i with
    | zero =>
      have hp' : m.cell a = .val p := hp
      simp only [readCells, hp', read_val, List.getElem?_cons_zero]
    | succ i =>
      simp only [readCells, List.getElem?_cons_succ]
      exact ih (a + 1) _ i p (by omega) (by rw [← hp]; congr 1; omega)

/-- What `MemRead` does where it succeeds. -/
theorem memRead_ok {a n : Nat} {s t : State} {px : List Pixel} (h : memRead a n s = .ok (px, t)) :
    ∃ m, s.fb = some m ∧ a + n ≤ m.size ∧ px = (readCells m a n s.draws).1 ∧ px.length = n ∧
      t = setDraws (readCells m a n s.draws).2 s := by
  unfold memRead at h
  split at h
  · cases h
  · next m hm =>
    split at h
    · next hle =>
      cases h
      exact ⟨m, hm, hle, rfl, readCells_length _ _ _ _, rfl⟩
    · cases h

/-- `MemRead` succeeds inside the buffer. -/
theorem memRead_eq {a n : Nat} {s : State} {m : Memory} (hm : s.fb = some m)
    (hle : a + n ≤ m.size) : memRead a n s =
      .ok ((readCells m a n s.draws).1, setDraws (readCells m a n s.draws).2 s) := by
  simp only [memRead, hm, if_pos hle]

end Sys2Proof.Machine
end

