-- ==== Sys2Proof/Laws/State.lean ====
section
/-! SUPPORT. One lemma per field per named update of the state, true by rfl, so that no proof unfolds
a record update. -/

namespace Sys2Proof.Machine

/-! ## `emit` -/

@[simp] theorem emit_busOwner (e : Event) (s : State) : (emit e s).busOwner = s.busOwner := rfl
@[simp] theorem emit_tState (e : Event) (s : State) : (emit e s).tState = s.tState := rfl
@[simp] theorem emit_tBus (e : Event) (s : State) : (emit e s).tBus = s.tBus := rfl
@[simp] theorem emit_tClockHz (e : Event) (s : State) : (emit e s).tClockHz = s.tClockHz := rfl
@[simp] theorem emit_tMode (e : Event) (s : State) : (emit e s).tMode = s.tMode := rfl
@[simp] theorem emit_tSelect (e : Event) (s : State) : (emit e s).tSelect = s.tSelect := rfl
@[simp] theorem emit_tQdepth (e : Event) (s : State) : (emit e s).tQdepth = s.tQdepth := rfl
@[simp] theorem emit_tOutstanding (e : Event) (s : State) : (emit e s).tOutstanding = s.tOutstanding := rfl
@[simp] theorem emit_txsr (e : Event) (s : State) : (emit e s).txsr = s.txsr := rfl
@[simp] theorem emit_role (e : Event) (s : State) : (emit e s).role = s.role := rfl
@[simp] theorem emit_rstLevel (e : Event) (s : State) : (emit e s).rstLevel = s.rstLevel := rfl
@[simp] theorem emit_blCfg (e : Event) (s : State) : (emit e s).blCfg = s.blCfg := rfl
@[simp] theorem emit_blLevel (e : Event) (s : State) : (emit e s).blLevel = s.blLevel := rfl
@[simp] theorem emit_pState (e : Event) (s : State) : (emit e s).pState = s.pState := rfl
@[simp] theorem emit_tc (e : Event) (s : State) : (emit e s).tc = s.tc := rfl
@[simp] theorem emit_pWidth (e : Event) (s : State) : (emit e s).pWidth = s.pWidth := rfl
@[simp] theorem emit_pPlacement (e : Event) (s : State) : (emit e s).pPlacement = s.pPlacement := rfl
@[simp] theorem emit_pPinmap (e : Event) (s : State) : (emit e s).pPinmap = s.pPinmap := rfl
@[simp] theorem emit_pAlign (e : Event) (s : State) : (emit e s).pAlign = s.pAlign := rfl
@[simp] theorem emit_fb (e : Event) (s : State) : (emit e s).fb = s.fb := rfl
@[simp] theorem emit_hcnt (e : Event) (s : State) : (emit e s).hcnt = s.hcnt := rfl
@[simp] theorem emit_vcnt (e : Event) (s : State) : (emit e s).vcnt = s.vcnt := rfl
@[simp] theorem emit_linebuf (e : Event) (s : State) : (emit e s).linebuf = s.linebuf := rfl
@[simp] theorem emit_prgPc (e : Event) (s : State) : (emit e s).prgPc = s.prgPc := rfl
@[simp] theorem emit_prgState (e : Event) (s : State) : (emit e s).prgState = s.prgState := rfl
@[simp] theorem emit_buStep (e : Event) (s : State) : (emit e s).buStep = s.buStep := rfl
@[simp] theorem emit_buState (e : Event) (s : State) : (emit e s).buState = s.buState := rfl
@[simp] theorem emit_buErr (e : Event) (s : State) : (emit e s).buErr = s.buErr := rfl
@[simp] theorem emit_trace (e : Event) (s : State) : (emit e s).trace = s.trace ++ [e] := rfl
@[simp] theorem emit_panel (e : Event) (s : State) : (emit e s).panel = s.panel := rfl
@[simp] theorem emit_program (e : Event) (s : State) : (emit e s).program = s.program := rfl
@[simp] theorem emit_thread (e : Event) (s : State) : (emit e s).thread = s.thread := rfl
@[simp] theorem emit_result (e : Event) (s : State) : (emit e s).result = s.result := rfl
@[simp] theorem emit_draws (e : Event) (s : State) : (emit e s).draws = s.draws := rfl

/-! ## `submit` -/

@[simp] theorem submit_busOwner (u : Unit9) (s : State) : (submit u s).busOwner = s.busOwner := rfl
@[simp] theorem submit_tState (u : Unit9) (s : State) : (submit u s).tState = s.tState := rfl
@[simp] theorem submit_tBus (u : Unit9) (s : State) : (submit u s).tBus = s.tBus := rfl
@[simp] theorem submit_tClockHz (u : Unit9) (s : State) : (submit u s).tClockHz = s.tClockHz := rfl
@[simp] theorem submit_tMode (u : Unit9) (s : State) : (submit u s).tMode = s.tMode := rfl
@[simp] theorem submit_tSelect (u : Unit9) (s : State) : (submit u s).tSelect = s.tSelect := rfl
@[simp] theorem submit_tQdepth (u : Unit9) (s : State) : (submit u s).tQdepth = s.tQdepth := rfl
@[simp] theorem submit_tOutstanding (u : Unit9) (s : State) : (submit u s).tOutstanding = s.tOutstanding + 1 := rfl
@[simp] theorem submit_txsr (u : Unit9) (s : State) : (submit u s).txsr = .val u := rfl
@[simp] theorem submit_role (u : Unit9) (s : State) : (submit u s).role = s.role := rfl
@[simp] theorem submit_rstLevel (u : Unit9) (s : State) : (submit u s).rstLevel = s.rstLevel := rfl
@[simp] theorem submit_blCfg (u : Unit9) (s : State) : (submit u s).blCfg = s.blCfg := rfl
@[simp] theorem submit_blLevel (u : Unit9) (s : State) : (submit u s).blLevel = s.blLevel := rfl
@[simp] theorem submit_pState (u : Unit9) (s : State) : (submit u s).pState = s.pState := rfl
@[simp] theorem submit_tc (u : Unit9) (s : State) : (submit u s).tc = s.tc := rfl
@[simp] theorem submit_pWidth (u : Unit9) (s : State) : (submit u s).pWidth = s.pWidth := rfl
@[simp] theorem submit_pPlacement (u : Unit9) (s : State) : (submit u s).pPlacement = s.pPlacement := rfl
@[simp] theorem submit_pPinmap (u : Unit9) (s : State) : (submit u s).pPinmap = s.pPinmap := rfl
@[simp] theorem submit_pAlign (u : Unit9) (s : State) : (submit u s).pAlign = s.pAlign := rfl
@[simp] theorem submit_fb (u : Unit9) (s : State) : (submit u s).fb = s.fb := rfl
@[simp] theorem submit_hcnt (u : Unit9) (s : State) : (submit u s).hcnt = s.hcnt := rfl
@[simp] theorem submit_vcnt (u : Unit9) (s : State) : (submit u s).vcnt = s.vcnt := rfl
@[simp] theorem submit_linebuf (u : Unit9) (s : State) : (submit u s).linebuf = s.linebuf := rfl
@[simp] theorem submit_prgPc (u : Unit9) (s : State) : (submit u s).prgPc = s.prgPc := rfl
@[simp] theorem submit_prgState (u : Unit9) (s : State) : (submit u s).prgState = s.prgState := rfl
@[simp] theorem submit_buStep (u : Unit9) (s : State) : (submit u s).buStep = s.buStep := rfl
@[simp] theorem submit_buState (u : Unit9) (s : State) : (submit u s).buState = s.buState := rfl
@[simp] theorem submit_buErr (u : Unit9) (s : State) : (submit u s).buErr = s.buErr := rfl
@[simp] theorem submit_trace (u : Unit9) (s : State) : (submit u s).trace = s.trace := rfl
@[simp] theorem submit_panel (u : Unit9) (s : State) : (submit u s).panel = s.panel := rfl
@[simp] theorem submit_program (u : Unit9) (s : State) : (submit u s).program = s.program := rfl
@[simp] theorem submit_thread (u : Unit9) (s : State) : (submit u s).thread = s.thread := rfl
@[simp] theorem submit_result (u : Unit9) (s : State) : (submit u s).result = s.result := rfl
@[simp] theorem submit_draws (u : Unit9) (s : State) : (submit u s).draws = s.draws := rfl

/-! ## `retire` -/

@[simp] theorem retire_busOwner (s : State) : (retire s).busOwner = s.busOwner := rfl
@[simp] theorem retire_tState (s : State) : (retire s).tState = s.tState := rfl
@[simp] theorem retire_tBus (s : State) : (retire s).tBus = s.tBus := rfl
@[simp] theorem retire_tClockHz (s : State) : (retire s).tClockHz = s.tClockHz := rfl
@[simp] theorem retire_tMode (s : State) : (retire s).tMode = s.tMode := rfl
@[simp] theorem retire_tSelect (s : State) : (retire s).tSelect = s.tSelect := rfl
@[simp] theorem retire_tQdepth (s : State) : (retire s).tQdepth = s.tQdepth := rfl
@[simp] theorem retire_tOutstanding (s : State) : (retire s).tOutstanding = s.tOutstanding - 1 := rfl
@[simp] theorem retire_txsr (s : State) : (retire s).txsr = s.txsr := rfl
@[simp] theorem retire_role (s : State) : (retire s).role = s.role := rfl
@[simp] theorem retire_rstLevel (s : State) : (retire s).rstLevel = s.rstLevel := rfl
@[simp] theorem retire_blCfg (s : State) : (retire s).blCfg = s.blCfg := rfl
@[simp] theorem retire_blLevel (s : State) : (retire s).blLevel = s.blLevel := rfl
@[simp] theorem retire_pState (s : State) : (retire s).pState = s.pState := rfl
@[simp] theorem retire_tc (s : State) : (retire s).tc = s.tc := rfl
@[simp] theorem retire_pWidth (s : State) : (retire s).pWidth = s.pWidth := rfl
@[simp] theorem retire_pPlacement (s : State) : (retire s).pPlacement = s.pPlacement := rfl
@[simp] theorem retire_pPinmap (s : State) : (retire s).pPinmap = s.pPinmap := rfl
@[simp] theorem retire_pAlign (s : State) : (retire s).pAlign = s.pAlign := rfl
@[simp] theorem retire_fb (s : State) : (retire s).fb = s.fb := rfl
@[simp] theorem retire_hcnt (s : State) : (retire s).hcnt = s.hcnt := rfl
@[simp] theorem retire_vcnt (s : State) : (retire s).vcnt = s.vcnt := rfl
@[simp] theorem retire_linebuf (s : State) : (retire s).linebuf = s.linebuf := rfl
@[simp] theorem retire_prgPc (s : State) : (retire s).prgPc = s.prgPc := rfl
@[simp] theorem retire_prgState (s : State) : (retire s).prgState = s.prgState := rfl
@[simp] theorem retire_buStep (s : State) : (retire s).buStep = s.buStep := rfl
@[simp] theorem retire_buState (s : State) : (retire s).buState = s.buState := rfl
@[simp] theorem retire_buErr (s : State) : (retire s).buErr = s.buErr := rfl
@[simp] theorem retire_trace (s : State) : (retire s).trace = s.trace := rfl
@[simp] theorem retire_panel (s : State) : (retire s).panel = s.panel := rfl
@[simp] theorem retire_program (s : State) : (retire s).program = s.program := rfl
@[simp] theorem retire_thread (s : State) : (retire s).thread = s.thread := rfl
@[simp] theorem retire_result (s : State) : (retire s).result = s.result := rfl
@[simp] theorem retire_draws (s : State) : (retire s).draws = s.draws := rfl

/-! ## `startProgram` -/

@[simp] theorem startProgram_busOwner (s : State) : (startProgram s).busOwner = s.busOwner := rfl
@[simp] theorem startProgram_tState (s : State) : (startProgram s).tState = s.tState := rfl
@[simp] theorem startProgram_tBus (s : State) : (startProgram s).tBus = s.tBus := rfl
@[simp] theorem startProgram_tClockHz (s : State) : (startProgram s).tClockHz = s.tClockHz := rfl
@[simp] theorem startProgram_tMode (s : State) : (startProgram s).tMode = s.tMode := rfl
@[simp] theorem startProgram_tSelect (s : State) : (startProgram s).tSelect = s.tSelect := rfl
@[simp] theorem startProgram_tQdepth (s : State) : (startProgram s).tQdepth = s.tQdepth := rfl
@[simp] theorem startProgram_tOutstanding (s : State) : (startProgram s).tOutstanding = s.tOutstanding := rfl
@[simp] theorem startProgram_txsr (s : State) : (startProgram s).txsr = s.txsr := rfl
@[simp] theorem startProgram_role (s : State) : (startProgram s).role = s.role := rfl
@[simp] theorem startProgram_rstLevel (s : State) : (startProgram s).rstLevel = s.rstLevel := rfl
@[simp] theorem startProgram_blCfg (s : State) : (startProgram s).blCfg = s.blCfg := rfl
@[simp] theorem startProgram_blLevel (s : State) : (startProgram s).blLevel = s.blLevel := rfl
@[simp] theorem startProgram_pState (s : State) : (startProgram s).pState = s.pState := rfl
@[simp] theorem startProgram_tc (s : State) : (startProgram s).tc = s.tc := rfl
@[simp] theorem startProgram_pWidth (s : State) : (startProgram s).pWidth = s.pWidth := rfl
@[simp] theorem startProgram_pPlacement (s : State) : (startProgram s).pPlacement = s.pPlacement := rfl
@[simp] theorem startProgram_pPinmap (s : State) : (startProgram s).pPinmap = s.pPinmap := rfl
@[simp] theorem startProgram_pAlign (s : State) : (startProgram s).pAlign = s.pAlign := rfl
@[simp] theorem startProgram_fb (s : State) : (startProgram s).fb = s.fb := rfl
@[simp] theorem startProgram_hcnt (s : State) : (startProgram s).hcnt = s.hcnt := rfl
@[simp] theorem startProgram_vcnt (s : State) : (startProgram s).vcnt = s.vcnt := rfl
@[simp] theorem startProgram_linebuf (s : State) : (startProgram s).linebuf = s.linebuf := rfl
@[simp] theorem startProgram_prgPc (s : State) : (startProgram s).prgPc = 0 := rfl
@[simp] theorem startProgram_prgState (s : State) : (startProgram s).prgState = .running := rfl
@[simp] theorem startProgram_buStep (s : State) : (startProgram s).buStep = s.buStep := rfl
@[simp] theorem startProgram_buState (s : State) : (startProgram s).buState = s.buState := rfl
@[simp] theorem startProgram_buErr (s : State) : (startProgram s).buErr = s.buErr := rfl
@[simp] theorem startProgram_trace (s : State) : (startProgram s).trace = s.trace := rfl
@[simp] theorem startProgram_panel (s : State) : (startProgram s).panel = s.panel := rfl
@[simp] theorem startProgram_program (s : State) : (startProgram s).program = s.program := rfl
@[simp] theorem startProgram_thread (s : State) : (startProgram s).thread = s.thread := rfl
@[simp] theorem startProgram_result (s : State) : (startProgram s).result = s.result := rfl
@[simp] theorem startProgram_draws (s : State) : (startProgram s).draws = s.draws := rfl

/-! ## `advanceProgram` -/

@[simp] theorem advanceProgram_busOwner (s : State) : (advanceProgram s).busOwner = s.busOwner := rfl
@[simp] theorem advanceProgram_tState (s : State) : (advanceProgram s).tState = s.tState := rfl
@[simp] theorem advanceProgram_tBus (s : State) : (advanceProgram s).tBus = s.tBus := rfl
@[simp] theorem advanceProgram_tClockHz (s : State) : (advanceProgram s).tClockHz = s.tClockHz := rfl
@[simp] theorem advanceProgram_tMode (s : State) : (advanceProgram s).tMode = s.tMode := rfl
@[simp] theorem advanceProgram_tSelect (s : State) : (advanceProgram s).tSelect = s.tSelect := rfl
@[simp] theorem advanceProgram_tQdepth (s : State) : (advanceProgram s).tQdepth = s.tQdepth := rfl
@[simp] theorem advanceProgram_tOutstanding (s : State) : (advanceProgram s).tOutstanding = s.tOutstanding := rfl
@[simp] theorem advanceProgram_txsr (s : State) : (advanceProgram s).txsr = s.txsr := rfl
@[simp] theorem advanceProgram_role (s : State) : (advanceProgram s).role = s.role := rfl
@[simp] theorem advanceProgram_rstLevel (s : State) : (advanceProgram s).rstLevel = s.rstLevel := rfl
@[simp] theorem advanceProgram_blCfg (s : State) : (advanceProgram s).blCfg = s.blCfg := rfl
@[simp] theorem advanceProgram_blLevel (s : State) : (advanceProgram s).blLevel = s.blLevel := rfl
@[simp] theorem advanceProgram_pState (s : State) : (advanceProgram s).pState = s.pState := rfl
@[simp] theorem advanceProgram_tc (s : State) : (advanceProgram s).tc = s.tc := rfl
@[simp] theorem advanceProgram_pWidth (s : State) : (advanceProgram s).pWidth = s.pWidth := rfl
@[simp] theorem advanceProgram_pPlacement (s : State) : (advanceProgram s).pPlacement = s.pPlacement := rfl
@[simp] theorem advanceProgram_pPinmap (s : State) : (advanceProgram s).pPinmap = s.pPinmap := rfl
@[simp] theorem advanceProgram_pAlign (s : State) : (advanceProgram s).pAlign = s.pAlign := rfl
@[simp] theorem advanceProgram_fb (s : State) : (advanceProgram s).fb = s.fb := rfl
@[simp] theorem advanceProgram_hcnt (s : State) : (advanceProgram s).hcnt = s.hcnt := rfl
@[simp] theorem advanceProgram_vcnt (s : State) : (advanceProgram s).vcnt = s.vcnt := rfl
@[simp] theorem advanceProgram_linebuf (s : State) : (advanceProgram s).linebuf = s.linebuf := rfl
@[simp] theorem advanceProgram_prgPc (s : State) : (advanceProgram s).prgPc = s.prgPc + 1 := rfl
@[simp] theorem advanceProgram_prgState (s : State) : (advanceProgram s).prgState = s.prgState := rfl
@[simp] theorem advanceProgram_buStep (s : State) : (advanceProgram s).buStep = s.buStep := rfl
@[simp] theorem advanceProgram_buState (s : State) : (advanceProgram s).buState = s.buState := rfl
@[simp] theorem advanceProgram_buErr (s : State) : (advanceProgram s).buErr = s.buErr := rfl
@[simp] theorem advanceProgram_trace (s : State) : (advanceProgram s).trace = s.trace := rfl
@[simp] theorem advanceProgram_panel (s : State) : (advanceProgram s).panel = s.panel := rfl
@[simp] theorem advanceProgram_program (s : State) : (advanceProgram s).program = s.program := rfl
@[simp] theorem advanceProgram_thread (s : State) : (advanceProgram s).thread = s.thread := rfl
@[simp] theorem advanceProgram_result (s : State) : (advanceProgram s).result = s.result := rfl
@[simp] theorem advanceProgram_draws (s : State) : (advanceProgram s).draws = s.draws := rfl

/-! ## `abortProgram` -/

@[simp] theorem abortProgram_busOwner (s : State) : (abortProgram s).busOwner = s.busOwner := rfl
@[simp] theorem abortProgram_tState (s : State) : (abortProgram s).tState = s.tState := rfl
@[simp] theorem abortProgram_tBus (s : State) : (abortProgram s).tBus = s.tBus := rfl
@[simp] theorem abortProgram_tClockHz (s : State) : (abortProgram s).tClockHz = s.tClockHz := rfl
@[simp] theorem abortProgram_tMode (s : State) : (abortProgram s).tMode = s.tMode := rfl
@[simp] theorem abortProgram_tSelect (s : State) : (abortProgram s).tSelect = s.tSelect := rfl
@[simp] theorem abortProgram_tQdepth (s : State) : (abortProgram s).tQdepth = s.tQdepth := rfl
@[simp] theorem abortProgram_tOutstanding (s : State) : (abortProgram s).tOutstanding = s.tOutstanding := rfl
@[simp] theorem abortProgram_txsr (s : State) : (abortProgram s).txsr = s.txsr := rfl
@[simp] theorem abortProgram_role (s : State) : (abortProgram s).role = s.role := rfl
@[simp] theorem abortProgram_rstLevel (s : State) : (abortProgram s).rstLevel = s.rstLevel := rfl
@[simp] theorem abortProgram_blCfg (s : State) : (abortProgram s).blCfg = s.blCfg := rfl
@[simp] theorem abortProgram_blLevel (s : State) : (abortProgram s).blLevel = s.blLevel := rfl
@[simp] theorem abortProgram_pState (s : State) : (abortProgram s).pState = s.pState := rfl
@[simp] theorem abortProgram_tc (s : State) : (abortProgram s).tc = s.tc := rfl
@[simp] theorem abortProgram_pWidth (s : State) : (abortProgram s).pWidth = s.pWidth := rfl
@[simp] theorem abortProgram_pPlacement (s : State) : (abortProgram s).pPlacement = s.pPlacement := rfl
@[simp] theorem abortProgram_pPinmap (s : State) : (abortProgram s).pPinmap = s.pPinmap := rfl
@[simp] theorem abortProgram_pAlign (s : State) : (abortProgram s).pAlign = s.pAlign := rfl
@[simp] theorem abortProgram_fb (s : State) : (abortProgram s).fb = s.fb := rfl
@[simp] theorem abortProgram_hcnt (s : State) : (abortProgram s).hcnt = s.hcnt := rfl
@[simp] theorem abortProgram_vcnt (s : State) : (abortProgram s).vcnt = s.vcnt := rfl
@[simp] theorem abortProgram_linebuf (s : State) : (abortProgram s).linebuf = s.linebuf := rfl
@[simp] theorem abortProgram_prgPc (s : State) : (abortProgram s).prgPc = s.prgPc := rfl
@[simp] theorem abortProgram_prgState (s : State) : (abortProgram s).prgState = .aborted := rfl
@[simp] theorem abortProgram_buStep (s : State) : (abortProgram s).buStep = s.buStep := rfl
@[simp] theorem abortProgram_buState (s : State) : (abortProgram s).buState = s.buState := rfl
@[simp] theorem abortProgram_buErr (s : State) : (abortProgram s).buErr = s.buErr := rfl
@[simp] theorem abortProgram_trace (s : State) : (abortProgram s).trace = s.trace := rfl
@[simp] theorem abortProgram_panel (s : State) : (abortProgram s).panel = .undefined := rfl
@[simp] theorem abortProgram_program (s : State) : (abortProgram s).program = s.program := rfl
@[simp] theorem abortProgram_thread (s : State) : (abortProgram s).thread = s.thread := rfl
@[simp] theorem abortProgram_result (s : State) : (abortProgram s).result = s.result := rfl
@[simp] theorem abortProgram_draws (s : State) : (abortProgram s).draws = s.draws := rfl

/-! ## `endProgram` -/

@[simp] theorem endProgram_busOwner (s : State) : (endProgram s).busOwner = s.busOwner := rfl
@[simp] theorem endProgram_tState (s : State) : (endProgram s).tState = s.tState := rfl
@[simp] theorem endProgram_tBus (s : State) : (endProgram s).tBus = s.tBus := rfl
@[simp] theorem endProgram_tClockHz (s : State) : (endProgram s).tClockHz = s.tClockHz := rfl
@[simp] theorem endProgram_tMode (s : State) : (endProgram s).tMode = s.tMode := rfl
@[simp] theorem endProgram_tSelect (s : State) : (endProgram s).tSelect = s.tSelect := rfl
@[simp] theorem endProgram_tQdepth (s : State) : (endProgram s).tQdepth = s.tQdepth := rfl
@[simp] theorem endProgram_tOutstanding (s : State) : (endProgram s).tOutstanding = s.tOutstanding := rfl
@[simp] theorem endProgram_txsr (s : State) : (endProgram s).txsr = s.txsr := rfl
@[simp] theorem endProgram_role (s : State) : (endProgram s).role = s.role := rfl
@[simp] theorem endProgram_rstLevel (s : State) : (endProgram s).rstLevel = s.rstLevel := rfl
@[simp] theorem endProgram_blCfg (s : State) : (endProgram s).blCfg = s.blCfg := rfl
@[simp] theorem endProgram_blLevel (s : State) : (endProgram s).blLevel = s.blLevel := rfl
@[simp] theorem endProgram_pState (s : State) : (endProgram s).pState = s.pState := rfl
@[simp] theorem endProgram_tc (s : State) : (endProgram s).tc = s.tc := rfl
@[simp] theorem endProgram_pWidth (s : State) : (endProgram s).pWidth = s.pWidth := rfl
@[simp] theorem endProgram_pPlacement (s : State) : (endProgram s).pPlacement = s.pPlacement := rfl
@[simp] theorem endProgram_pPinmap (s : State) : (endProgram s).pPinmap = s.pPinmap := rfl
@[simp] theorem endProgram_pAlign (s : State) : (endProgram s).pAlign = s.pAlign := rfl
@[simp] theorem endProgram_fb (s : State) : (endProgram s).fb = s.fb := rfl
@[simp] theorem endProgram_hcnt (s : State) : (endProgram s).hcnt = s.hcnt := rfl
@[simp] theorem endProgram_vcnt (s : State) : (endProgram s).vcnt = s.vcnt := rfl
@[simp] theorem endProgram_linebuf (s : State) : (endProgram s).linebuf = s.linebuf := rfl
@[simp] theorem endProgram_prgPc (s : State) : (endProgram s).prgPc = s.prgPc := rfl
@[simp] theorem endProgram_prgState (s : State) : (endProgram s).prgState = .done := rfl
@[simp] theorem endProgram_buStep (s : State) : (endProgram s).buStep = s.buStep := rfl
@[simp] theorem endProgram_buState (s : State) : (endProgram s).buState = s.buState := rfl
@[simp] theorem endProgram_buErr (s : State) : (endProgram s).buErr = s.buErr := rfl
@[simp] theorem endProgram_trace (s : State) : (endProgram s).trace = s.trace := rfl
@[simp] theorem endProgram_panel (s : State) : (endProgram s).panel = s.panel := rfl
@[simp] theorem endProgram_program (s : State) : (endProgram s).program = s.program := rfl
@[simp] theorem endProgram_thread (s : State) : (endProgram s).thread = s.thread := rfl
@[simp] theorem endProgram_result (s : State) : (endProgram s).result = s.result := rfl
@[simp] theorem endProgram_draws (s : State) : (endProgram s).draws = s.draws := rfl

/-! ## `startBringUp` -/

@[simp] theorem startBringUp_busOwner (s : State) : (startBringUp s).busOwner = s.busOwner := rfl
@[simp] theorem startBringUp_tState (s : State) : (startBringUp s).tState = s.tState := rfl
@[simp] theorem startBringUp_tBus (s : State) : (startBringUp s).tBus = s.tBus := rfl
@[simp] theorem startBringUp_tClockHz (s : State) : (startBringUp s).tClockHz = s.tClockHz := rfl
@[simp] theorem startBringUp_tMode (s : State) : (startBringUp s).tMode = s.tMode := rfl
@[simp] theorem startBringUp_tSelect (s : State) : (startBringUp s).tSelect = s.tSelect := rfl
@[simp] theorem startBringUp_tQdepth (s : State) : (startBringUp s).tQdepth = s.tQdepth := rfl
@[simp] theorem startBringUp_tOutstanding (s : State) : (startBringUp s).tOutstanding = s.tOutstanding := rfl
@[simp] theorem startBringUp_txsr (s : State) : (startBringUp s).txsr = s.txsr := rfl
@[simp] theorem startBringUp_role (s : State) : (startBringUp s).role = s.role := rfl
@[simp] theorem startBringUp_rstLevel (s : State) : (startBringUp s).rstLevel = s.rstLevel := rfl
@[simp] theorem startBringUp_blCfg (s : State) : (startBringUp s).blCfg = s.blCfg := rfl
@[simp] theorem startBringUp_blLevel (s : State) : (startBringUp s).blLevel = s.blLevel := rfl
@[simp] theorem startBringUp_pState (s : State) : (startBringUp s).pState = s.pState := rfl
@[simp] theorem startBringUp_tc (s : State) : (startBringUp s).tc = s.tc := rfl
@[simp] theorem startBringUp_pWidth (s : State) : (startBringUp s).pWidth = s.pWidth := rfl
@[simp] theorem startBringUp_pPlacement (s : State) : (startBringUp s).pPlacement = s.pPlacement := rfl
@[simp] theorem startBringUp_pPinmap (s : State) : (startBringUp s).pPinmap = s.pPinmap := rfl
@[simp] theorem startBringUp_pAlign (s : State) : (startBringUp s).pAlign = s.pAlign := rfl
@[simp] theorem startBringUp_fb (s : State) : (startBringUp s).fb = s.fb := rfl
@[simp] theorem startBringUp_hcnt (s : State) : (startBringUp s).hcnt = s.hcnt := rfl
@[simp] theorem startBringUp_vcnt (s : State) : (startBringUp s).vcnt = s.vcnt := rfl
@[simp] theorem startBringUp_linebuf (s : State) : (startBringUp s).linebuf = s.linebuf := rfl
@[simp] theorem startBringUp_prgPc (s : State) : (startBringUp s).prgPc = s.prgPc := rfl
@[simp] theorem startBringUp_prgState (s : State) : (startBringUp s).prgState = s.prgState := rfl
@[simp] theorem startBringUp_buStep (s : State) : (startBringUp s).buStep = 0 := rfl
@[simp] theorem startBringUp_buState (s : State) : (startBringUp s).buState = .running := rfl
@[simp] theorem startBringUp_buErr (s : State) : (startBringUp s).buErr = s.buErr := rfl
@[simp] theorem startBringUp_trace (s : State) : (startBringUp s).trace = s.trace := rfl
@[simp] theorem startBringUp_panel (s : State) : (startBringUp s).panel = s.panel := rfl
@[simp] theorem startBringUp_program (s : State) : (startBringUp s).program = s.program := rfl
@[simp] theorem startBringUp_thread (s : State) : (startBringUp s).thread = s.thread := rfl
@[simp] theorem startBringUp_result (s : State) : (startBringUp s).result = s.result := rfl
@[simp] theorem startBringUp_draws (s : State) : (startBringUp s).draws = s.draws := rfl

/-! ## `advanceBringUp` -/

@[simp] theorem advanceBringUp_busOwner (s : State) : (advanceBringUp s).busOwner = s.busOwner := rfl
@[simp] theorem advanceBringUp_tState (s : State) : (advanceBringUp s).tState = s.tState := rfl
@[simp] theorem advanceBringUp_tBus (s : State) : (advanceBringUp s).tBus = s.tBus := rfl
@[simp] theorem advanceBringUp_tClockHz (s : State) : (advanceBringUp s).tClockHz = s.tClockHz := rfl
@[simp] theorem advanceBringUp_tMode (s : State) : (advanceBringUp s).tMode = s.tMode := rfl
@[simp] theorem advanceBringUp_tSelect (s : State) : (advanceBringUp s).tSelect = s.tSelect := rfl
@[simp] theorem advanceBringUp_tQdepth (s : State) : (advanceBringUp s).tQdepth = s.tQdepth := rfl
@[simp] theorem advanceBringUp_tOutstanding (s : State) : (advanceBringUp s).tOutstanding = s.tOutstanding := rfl
@[simp] theorem advanceBringUp_txsr (s : State) : (advanceBringUp s).txsr = s.txsr := rfl
@[simp] theorem advanceBringUp_role (s : State) : (advanceBringUp s).role = s.role := rfl
@[simp] theorem advanceBringUp_rstLevel (s : State) : (advanceBringUp s).rstLevel = s.rstLevel := rfl
@[simp] theorem advanceBringUp_blCfg (s : State) : (advanceBringUp s).blCfg = s.blCfg := rfl
@[simp] theorem advanceBringUp_blLevel (s : State) : (advanceBringUp s).blLevel = s.blLevel := rfl
@[simp] theorem advanceBringUp_pState (s : State) : (advanceBringUp s).pState = s.pState := rfl
@[simp] theorem advanceBringUp_tc (s : State) : (advanceBringUp s).tc = s.tc := rfl
@[simp] theorem advanceBringUp_pWidth (s : State) : (advanceBringUp s).pWidth = s.pWidth := rfl
@[simp] theorem advanceBringUp_pPlacement (s : State) : (advanceBringUp s).pPlacement = s.pPlacement := rfl
@[simp] theorem advanceBringUp_pPinmap (s : State) : (advanceBringUp s).pPinmap = s.pPinmap := rfl
@[simp] theorem advanceBringUp_pAlign (s : State) : (advanceBringUp s).pAlign = s.pAlign := rfl
@[simp] theorem advanceBringUp_fb (s : State) : (advanceBringUp s).fb = s.fb := rfl
@[simp] theorem advanceBringUp_hcnt (s : State) : (advanceBringUp s).hcnt = s.hcnt := rfl
@[simp] theorem advanceBringUp_vcnt (s : State) : (advanceBringUp s).vcnt = s.vcnt := rfl
@[simp] theorem advanceBringUp_linebuf (s : State) : (advanceBringUp s).linebuf = s.linebuf := rfl
@[simp] theorem advanceBringUp_prgPc (s : State) : (advanceBringUp s).prgPc = s.prgPc := rfl
@[simp] theorem advanceBringUp_prgState (s : State) : (advanceBringUp s).prgState = s.prgState := rfl
@[simp] theorem advanceBringUp_buStep (s : State) : (advanceBringUp s).buStep = s.buStep + 1 := rfl
@[simp] theorem advanceBringUp_buState (s : State) : (advanceBringUp s).buState = s.buState := rfl
@[simp] theorem advanceBringUp_buErr (s : State) : (advanceBringUp s).buErr = s.buErr := rfl
@[simp] theorem advanceBringUp_trace (s : State) : (advanceBringUp s).trace = s.trace := rfl
@[simp] theorem advanceBringUp_panel (s : State) : (advanceBringUp s).panel = s.panel := rfl
@[simp] theorem advanceBringUp_program (s : State) : (advanceBringUp s).program = s.program := rfl
@[simp] theorem advanceBringUp_thread (s : State) : (advanceBringUp s).thread = s.thread := rfl
@[simp] theorem advanceBringUp_result (s : State) : (advanceBringUp s).result = s.result := rfl
@[simp] theorem advanceBringUp_draws (s : State) : (advanceBringUp s).draws = s.draws := rfl

/-! ## `failBringUp` -/

@[simp] theorem failBringUp_busOwner (e : Err) (s : State) : (failBringUp e s).busOwner = s.busOwner := rfl
@[simp] theorem failBringUp_tState (e : Err) (s : State) : (failBringUp e s).tState = s.tState := rfl
@[simp] theorem failBringUp_tBus (e : Err) (s : State) : (failBringUp e s).tBus = s.tBus := rfl
@[simp] theorem failBringUp_tClockHz (e : Err) (s : State) : (failBringUp e s).tClockHz = s.tClockHz := rfl
@[simp] theorem failBringUp_tMode (e : Err) (s : State) : (failBringUp e s).tMode = s.tMode := rfl
@[simp] theorem failBringUp_tSelect (e : Err) (s : State) : (failBringUp e s).tSelect = s.tSelect := rfl
@[simp] theorem failBringUp_tQdepth (e : Err) (s : State) : (failBringUp e s).tQdepth = s.tQdepth := rfl
@[simp] theorem failBringUp_tOutstanding (e : Err) (s : State) : (failBringUp e s).tOutstanding = s.tOutstanding := rfl
@[simp] theorem failBringUp_txsr (e : Err) (s : State) : (failBringUp e s).txsr = s.txsr := rfl
@[simp] theorem failBringUp_role (e : Err) (s : State) : (failBringUp e s).role = s.role := rfl
@[simp] theorem failBringUp_rstLevel (e : Err) (s : State) : (failBringUp e s).rstLevel = s.rstLevel := rfl
@[simp] theorem failBringUp_blCfg (e : Err) (s : State) : (failBringUp e s).blCfg = s.blCfg := rfl
@[simp] theorem failBringUp_blLevel (e : Err) (s : State) : (failBringUp e s).blLevel = s.blLevel := rfl
@[simp] theorem failBringUp_pState (e : Err) (s : State) : (failBringUp e s).pState = s.pState := rfl
@[simp] theorem failBringUp_tc (e : Err) (s : State) : (failBringUp e s).tc = s.tc := rfl
@[simp] theorem failBringUp_pWidth (e : Err) (s : State) : (failBringUp e s).pWidth = s.pWidth := rfl
@[simp] theorem failBringUp_pPlacement (e : Err) (s : State) : (failBringUp e s).pPlacement = s.pPlacement := rfl
@[simp] theorem failBringUp_pPinmap (e : Err) (s : State) : (failBringUp e s).pPinmap = s.pPinmap := rfl
@[simp] theorem failBringUp_pAlign (e : Err) (s : State) : (failBringUp e s).pAlign = s.pAlign := rfl
@[simp] theorem failBringUp_fb (e : Err) (s : State) : (failBringUp e s).fb = s.fb := rfl
@[simp] theorem failBringUp_hcnt (e : Err) (s : State) : (failBringUp e s).hcnt = s.hcnt := rfl
@[simp] theorem failBringUp_vcnt (e : Err) (s : State) : (failBringUp e s).vcnt = s.vcnt := rfl
@[simp] theorem failBringUp_linebuf (e : Err) (s : State) : (failBringUp e s).linebuf = s.linebuf := rfl
@[simp] theorem failBringUp_prgPc (e : Err) (s : State) : (failBringUp e s).prgPc = s.prgPc := rfl
@[simp] theorem failBringUp_prgState (e : Err) (s : State) : (failBringUp e s).prgState = s.prgState := rfl
@[simp] theorem failBringUp_buStep (e : Err) (s : State) : (failBringUp e s).buStep = s.buStep := rfl
@[simp] theorem failBringUp_buState (e : Err) (s : State) : (failBringUp e s).buState = .failed := rfl
@[simp] theorem failBringUp_buErr (e : Err) (s : State) : (failBringUp e s).buErr = some e := rfl
@[simp] theorem failBringUp_trace (e : Err) (s : State) : (failBringUp e s).trace = s.trace := rfl
@[simp] theorem failBringUp_panel (e : Err) (s : State) : (failBringUp e s).panel = s.panel := rfl
@[simp] theorem failBringUp_program (e : Err) (s : State) : (failBringUp e s).program = s.program := rfl
@[simp] theorem failBringUp_thread (e : Err) (s : State) : (failBringUp e s).thread = s.thread := rfl
@[simp] theorem failBringUp_result (e : Err) (s : State) : (failBringUp e s).result = s.result := rfl
@[simp] theorem failBringUp_draws (e : Err) (s : State) : (failBringUp e s).draws = s.draws := rfl

/-! ## `endBringUp` -/

@[simp] theorem endBringUp_busOwner (s : State) : (endBringUp s).busOwner = s.busOwner := rfl
@[simp] theorem endBringUp_tState (s : State) : (endBringUp s).tState = s.tState := rfl
@[simp] theorem endBringUp_tBus (s : State) : (endBringUp s).tBus = s.tBus := rfl
@[simp] theorem endBringUp_tClockHz (s : State) : (endBringUp s).tClockHz = s.tClockHz := rfl
@[simp] theorem endBringUp_tMode (s : State) : (endBringUp s).tMode = s.tMode := rfl
@[simp] theorem endBringUp_tSelect (s : State) : (endBringUp s).tSelect = s.tSelect := rfl
@[simp] theorem endBringUp_tQdepth (s : State) : (endBringUp s).tQdepth = s.tQdepth := rfl
@[simp] theorem endBringUp_tOutstanding (s : State) : (endBringUp s).tOutstanding = s.tOutstanding := rfl
@[simp] theorem endBringUp_txsr (s : State) : (endBringUp s).txsr = s.txsr := rfl
@[simp] theorem endBringUp_role (s : State) : (endBringUp s).role = s.role := rfl
@[simp] theorem endBringUp_rstLevel (s : State) : (endBringUp s).rstLevel = s.rstLevel := rfl
@[simp] theorem endBringUp_blCfg (s : State) : (endBringUp s).blCfg = s.blCfg := rfl
@[simp] theorem endBringUp_blLevel (s : State) : (endBringUp s).blLevel = s.blLevel := rfl
@[simp] theorem endBringUp_pState (s : State) : (endBringUp s).pState = s.pState := rfl
@[simp] theorem endBringUp_tc (s : State) : (endBringUp s).tc = s.tc := rfl
@[simp] theorem endBringUp_pWidth (s : State) : (endBringUp s).pWidth = s.pWidth := rfl
@[simp] theorem endBringUp_pPlacement (s : State) : (endBringUp s).pPlacement = s.pPlacement := rfl
@[simp] theorem endBringUp_pPinmap (s : State) : (endBringUp s).pPinmap = s.pPinmap := rfl
@[simp] theorem endBringUp_pAlign (s : State) : (endBringUp s).pAlign = s.pAlign := rfl
@[simp] theorem endBringUp_fb (s : State) : (endBringUp s).fb = s.fb := rfl
@[simp] theorem endBringUp_hcnt (s : State) : (endBringUp s).hcnt = s.hcnt := rfl
@[simp] theorem endBringUp_vcnt (s : State) : (endBringUp s).vcnt = s.vcnt := rfl
@[simp] theorem endBringUp_linebuf (s : State) : (endBringUp s).linebuf = s.linebuf := rfl
@[simp] theorem endBringUp_prgPc (s : State) : (endBringUp s).prgPc = s.prgPc := rfl
@[simp] theorem endBringUp_prgState (s : State) : (endBringUp s).prgState = s.prgState := rfl
@[simp] theorem endBringUp_buStep (s : State) : (endBringUp s).buStep = s.buStep := rfl
@[simp] theorem endBringUp_buState (s : State) : (endBringUp s).buState = .ready := rfl
@[simp] theorem endBringUp_buErr (s : State) : (endBringUp s).buErr = s.buErr := rfl
@[simp] theorem endBringUp_trace (s : State) : (endBringUp s).trace = s.trace := rfl
@[simp] theorem endBringUp_panel (s : State) : (endBringUp s).panel = s.panel := rfl
@[simp] theorem endBringUp_program (s : State) : (endBringUp s).program = s.program := rfl
@[simp] theorem endBringUp_thread (s : State) : (endBringUp s).thread = s.thread := rfl
@[simp] theorem endBringUp_result (s : State) : (endBringUp s).result = s.result := rfl
@[simp] theorem endBringUp_draws (s : State) : (endBringUp s).draws = s.draws := rfl

/-! ## `panelAfterResetLine` -/

@[simp] theorem panelAfterResetLine_busOwner (s : State) : (panelAfterResetLine s).busOwner = s.busOwner := rfl
@[simp] theorem panelAfterResetLine_tState (s : State) : (panelAfterResetLine s).tState = s.tState := rfl
@[simp] theorem panelAfterResetLine_tBus (s : State) : (panelAfterResetLine s).tBus = s.tBus := rfl
@[simp] theorem panelAfterResetLine_tClockHz (s : State) : (panelAfterResetLine s).tClockHz = s.tClockHz := rfl
@[simp] theorem panelAfterResetLine_tMode (s : State) : (panelAfterResetLine s).tMode = s.tMode := rfl
@[simp] theorem panelAfterResetLine_tSelect (s : State) : (panelAfterResetLine s).tSelect = s.tSelect := rfl
@[simp] theorem panelAfterResetLine_tQdepth (s : State) : (panelAfterResetLine s).tQdepth = s.tQdepth := rfl
@[simp] theorem panelAfterResetLine_tOutstanding (s : State) : (panelAfterResetLine s).tOutstanding = s.tOutstanding := rfl
@[simp] theorem panelAfterResetLine_txsr (s : State) : (panelAfterResetLine s).txsr = s.txsr := rfl
@[simp] theorem panelAfterResetLine_role (s : State) : (panelAfterResetLine s).role = s.role := rfl
@[simp] theorem panelAfterResetLine_rstLevel (s : State) : (panelAfterResetLine s).rstLevel = s.rstLevel := rfl
@[simp] theorem panelAfterResetLine_blCfg (s : State) : (panelAfterResetLine s).blCfg = s.blCfg := rfl
@[simp] theorem panelAfterResetLine_blLevel (s : State) : (panelAfterResetLine s).blLevel = s.blLevel := rfl
@[simp] theorem panelAfterResetLine_pState (s : State) : (panelAfterResetLine s).pState = s.pState := rfl
@[simp] theorem panelAfterResetLine_tc (s : State) : (panelAfterResetLine s).tc = s.tc := rfl
@[simp] theorem panelAfterResetLine_pWidth (s : State) : (panelAfterResetLine s).pWidth = s.pWidth := rfl
@[simp] theorem panelAfterResetLine_pPlacement (s : State) : (panelAfterResetLine s).pPlacement = s.pPlacement := rfl
@[simp] theorem panelAfterResetLine_pPinmap (s : State) : (panelAfterResetLine s).pPinmap = s.pPinmap := rfl
@[simp] theorem panelAfterResetLine_pAlign (s : State) : (panelAfterResetLine s).pAlign = s.pAlign := rfl
@[simp] theorem panelAfterResetLine_fb (s : State) : (panelAfterResetLine s).fb = s.fb := rfl
@[simp] theorem panelAfterResetLine_hcnt (s : State) : (panelAfterResetLine s).hcnt = s.hcnt := rfl
@[simp] theorem panelAfterResetLine_vcnt (s : State) : (panelAfterResetLine s).vcnt = s.vcnt := rfl
@[simp] theorem panelAfterResetLine_linebuf (s : State) : (panelAfterResetLine s).linebuf = s.linebuf := rfl
@[simp] theorem panelAfterResetLine_prgPc (s : State) : (panelAfterResetLine s).prgPc = s.prgPc := rfl
@[simp] theorem panelAfterResetLine_prgState (s : State) : (panelAfterResetLine s).prgState = s.prgState := rfl
@[simp] theorem panelAfterResetLine_buStep (s : State) : (panelAfterResetLine s).buStep = s.buStep := rfl
@[simp] theorem panelAfterResetLine_buState (s : State) : (panelAfterResetLine s).buState = s.buState := rfl
@[simp] theorem panelAfterResetLine_buErr (s : State) : (panelAfterResetLine s).buErr = s.buErr := rfl
@[simp] theorem panelAfterResetLine_trace (s : State) : (panelAfterResetLine s).trace = s.trace := rfl
@[simp] theorem panelAfterResetLine_panel (s : State) : (panelAfterResetLine s).panel = .unknown := rfl
@[simp] theorem panelAfterResetLine_program (s : State) : (panelAfterResetLine s).program = s.program := rfl
@[simp] theorem panelAfterResetLine_thread (s : State) : (panelAfterResetLine s).thread = s.thread := rfl
@[simp] theorem panelAfterResetLine_result (s : State) : (panelAfterResetLine s).result = s.result := rfl
@[simp] theorem panelAfterResetLine_draws (s : State) : (panelAfterResetLine s).draws = s.draws := rfl

/-! ## `setDraws` -/

@[simp] theorem setDraws_busOwner (d : Draws) (s : State) : (setDraws d s).busOwner = s.busOwner := rfl
@[simp] theorem setDraws_tState (d : Draws) (s : State) : (setDraws d s).tState = s.tState := rfl
@[simp] theorem setDraws_tBus (d : Draws) (s : State) : (setDraws d s).tBus = s.tBus := rfl
@[simp] theorem setDraws_tClockHz (d : Draws) (s : State) : (setDraws d s).tClockHz = s.tClockHz := rfl
@[simp] theorem setDraws_tMode (d : Draws) (s : State) : (setDraws d s).tMode = s.tMode := rfl
@[simp] theorem setDraws_tSelect (d : Draws) (s : State) : (setDraws d s).tSelect = s.tSelect := rfl
@[simp] theorem setDraws_tQdepth (d : Draws) (s : State) : (setDraws d s).tQdepth = s.tQdepth := rfl
@[simp] theorem setDraws_tOutstanding (d : Draws) (s : State) : (setDraws d s).tOutstanding = s.tOutstanding := rfl
@[simp] theorem setDraws_txsr (d : Draws) (s : State) : (setDraws d s).txsr = s.txsr := rfl
@[simp] theorem setDraws_role (d : Draws) (s : State) : (setDraws d s).role = s.role := rfl
@[simp] theorem setDraws_rstLevel (d : Draws) (s : State) : (setDraws d s).rstLevel = s.rstLevel := rfl
@[simp] theorem setDraws_blCfg (d : Draws) (s : State) : (setDraws d s).blCfg = s.blCfg := rfl
@[simp] theorem setDraws_blLevel (d : Draws) (s : State) : (setDraws d s).blLevel = s.blLevel := rfl
@[simp] theorem setDraws_pState (d : Draws) (s : State) : (setDraws d s).pState = s.pState := rfl
@[simp] theorem setDraws_tc (d : Draws) (s : State) : (setDraws d s).tc = s.tc := rfl
@[simp] theorem setDraws_pWidth (d : Draws) (s : State) : (setDraws d s).pWidth = s.pWidth := rfl
@[simp] theorem setDraws_pPlacement (d : Draws) (s : State) : (setDraws d s).pPlacement = s.pPlacement := rfl
@[simp] theorem setDraws_pPinmap (d : Draws) (s : State) : (setDraws d s).pPinmap = s.pPinmap := rfl
@[simp] theorem setDraws_pAlign (d : Draws) (s : State) : (setDraws d s).pAlign = s.pAlign := rfl
@[simp] theorem setDraws_fb (d : Draws) (s : State) : (setDraws d s).fb = s.fb := rfl
@[simp] theorem setDraws_hcnt (d : Draws) (s : State) : (setDraws d s).hcnt = s.hcnt := rfl
@[simp] theorem setDraws_vcnt (d : Draws) (s : State) : (setDraws d s).vcnt = s.vcnt := rfl
@[simp] theorem setDraws_linebuf (d : Draws) (s : State) : (setDraws d s).linebuf = s.linebuf := rfl
@[simp] theorem setDraws_prgPc (d : Draws) (s : State) : (setDraws d s).prgPc = s.prgPc := rfl
@[simp] theorem setDraws_prgState (d : Draws) (s : State) : (setDraws d s).prgState = s.prgState := rfl
@[simp] theorem setDraws_buStep (d : Draws) (s : State) : (setDraws d s).buStep = s.buStep := rfl
@[simp] theorem setDraws_buState (d : Draws) (s : State) : (setDraws d s).buState = s.buState := rfl
@[simp] theorem setDraws_buErr (d : Draws) (s : State) : (setDraws d s).buErr = s.buErr := rfl
@[simp] theorem setDraws_trace (d : Draws) (s : State) : (setDraws d s).trace = s.trace := rfl
@[simp] theorem setDraws_panel (d : Draws) (s : State) : (setDraws d s).panel = s.panel := rfl
@[simp] theorem setDraws_program (d : Draws) (s : State) : (setDraws d s).program = s.program := rfl
@[simp] theorem setDraws_thread (d : Draws) (s : State) : (setDraws d s).thread = s.thread := rfl
@[simp] theorem setDraws_result (d : Draws) (s : State) : (setDraws d s).result = s.result := rfl
@[simp] theorem setDraws_draws (d : Draws) (s : State) : (setDraws d s).draws = d := rfl

/-! ## `setCounters` -/

@[simp] theorem setCounters_busOwner (h v : Nat) (s : State) : (setCounters h v s).busOwner = s.busOwner := rfl
@[simp] theorem setCounters_tState (h v : Nat) (s : State) : (setCounters h v s).tState = s.tState := rfl
@[simp] theorem setCounters_tBus (h v : Nat) (s : State) : (setCounters h v s).tBus = s.tBus := rfl
@[simp] theorem setCounters_tClockHz (h v : Nat) (s : State) : (setCounters h v s).tClockHz = s.tClockHz := rfl
@[simp] theorem setCounters_tMode (h v : Nat) (s : State) : (setCounters h v s).tMode = s.tMode := rfl
@[simp] theorem setCounters_tSelect (h v : Nat) (s : State) : (setCounters h v s).tSelect = s.tSelect := rfl
@[simp] theorem setCounters_tQdepth (h v : Nat) (s : State) : (setCounters h v s).tQdepth = s.tQdepth := rfl
@[simp] theorem setCounters_tOutstanding (h v : Nat) (s : State) : (setCounters h v s).tOutstanding = s.tOutstanding := rfl
@[simp] theorem setCounters_txsr (h v : Nat) (s : State) : (setCounters h v s).txsr = s.txsr := rfl
@[simp] theorem setCounters_role (h v : Nat) (s : State) : (setCounters h v s).role = s.role := rfl
@[simp] theorem setCounters_rstLevel (h v : Nat) (s : State) : (setCounters h v s).rstLevel = s.rstLevel := rfl
@[simp] theorem setCounters_blCfg (h v : Nat) (s : State) : (setCounters h v s).blCfg = s.blCfg := rfl
@[simp] theorem setCounters_blLevel (h v : Nat) (s : State) : (setCounters h v s).blLevel = s.blLevel := rfl
@[simp] theorem setCounters_pState (h v : Nat) (s : State) : (setCounters h v s).pState = s.pState := rfl
@[simp] theorem setCounters_tc (h v : Nat) (s : State) : (setCounters h v s).tc = s.tc := rfl
@[simp] theorem setCounters_pWidth (h v : Nat) (s : State) : (setCounters h v s).pWidth = s.pWidth := rfl
@[simp] theorem setCounters_pPlacement (h v : Nat) (s : State) : (setCounters h v s).pPlacement = s.pPlacement := rfl
@[simp] theorem setCounters_pPinmap (h v : Nat) (s : State) : (setCounters h v s).pPinmap = s.pPinmap := rfl
@[simp] theorem setCounters_pAlign (h v : Nat) (s : State) : (setCounters h v s).pAlign = s.pAlign := rfl
@[simp] theorem setCounters_fb (h v : Nat) (s : State) : (setCounters h v s).fb = s.fb := rfl
@[simp] theorem setCounters_hcnt (h v : Nat) (s : State) : (setCounters h v s).hcnt = .val h := rfl
@[simp] theorem setCounters_vcnt (h v : Nat) (s : State) : (setCounters h v s).vcnt = .val v := rfl
@[simp] theorem setCounters_linebuf (h v : Nat) (s : State) : (setCounters h v s).linebuf = s.linebuf := rfl
@[simp] theorem setCounters_prgPc (h v : Nat) (s : State) : (setCounters h v s).prgPc = s.prgPc := rfl
@[simp] theorem setCounters_prgState (h v : Nat) (s : State) : (setCounters h v s).prgState = s.prgState := rfl
@[simp] theorem setCounters_buStep (h v : Nat) (s : State) : (setCounters h v s).buStep = s.buStep := rfl
@[simp] theorem setCounters_buState (h v : Nat) (s : State) : (setCounters h v s).buState = s.buState := rfl
@[simp] theorem setCounters_buErr (h v : Nat) (s : State) : (setCounters h v s).buErr = s.buErr := rfl
@[simp] theorem setCounters_trace (h v : Nat) (s : State) : (setCounters h v s).trace = s.trace := rfl
@[simp] theorem setCounters_panel (h v : Nat) (s : State) : (setCounters h v s).panel = s.panel := rfl
@[simp] theorem setCounters_program (h v : Nat) (s : State) : (setCounters h v s).program = s.program := rfl
@[simp] theorem setCounters_thread (h v : Nat) (s : State) : (setCounters h v s).thread = s.thread := rfl
@[simp] theorem setCounters_result (h v : Nat) (s : State) : (setCounters h v s).result = s.result := rfl
@[simp] theorem setCounters_draws (h v : Nat) (s : State) : (setCounters h v s).draws = s.draws := rfl

/-! ## `loadLine` -/

@[simp] theorem loadLine_busOwner (px : List Pixel) (s : State) : (loadLine px s).busOwner = s.busOwner := rfl
@[simp] theorem loadLine_tState (px : List Pixel) (s : State) : (loadLine px s).tState = s.tState := rfl
@[simp] theorem loadLine_tBus (px : List Pixel) (s : State) : (loadLine px s).tBus = s.tBus := rfl
@[simp] theorem loadLine_tClockHz (px : List Pixel) (s : State) : (loadLine px s).tClockHz = s.tClockHz := rfl
@[simp] theorem loadLine_tMode (px : List Pixel) (s : State) : (loadLine px s).tMode = s.tMode := rfl
@[simp] theorem loadLine_tSelect (px : List Pixel) (s : State) : (loadLine px s).tSelect = s.tSelect := rfl
@[simp] theorem loadLine_tQdepth (px : List Pixel) (s : State) : (loadLine px s).tQdepth = s.tQdepth := rfl
@[simp] theorem loadLine_tOutstanding (px : List Pixel) (s : State) : (loadLine px s).tOutstanding = s.tOutstanding := rfl
@[simp] theorem loadLine_txsr (px : List Pixel) (s : State) : (loadLine px s).txsr = s.txsr := rfl
@[simp] theorem loadLine_role (px : List Pixel) (s : State) : (loadLine px s).role = s.role := rfl
@[simp] theorem loadLine_rstLevel (px : List Pixel) (s : State) : (loadLine px s).rstLevel = s.rstLevel := rfl
@[simp] theorem loadLine_blCfg (px : List Pixel) (s : State) : (loadLine px s).blCfg = s.blCfg := rfl
@[simp] theorem loadLine_blLevel (px : List Pixel) (s : State) : (loadLine px s).blLevel = s.blLevel := rfl
@[simp] theorem loadLine_pState (px : List Pixel) (s : State) : (loadLine px s).pState = s.pState := rfl
@[simp] theorem loadLine_tc (px : List Pixel) (s : State) : (loadLine px s).tc = s.tc := rfl
@[simp] theorem loadLine_pWidth (px : List Pixel) (s : State) : (loadLine px s).pWidth = s.pWidth := rfl
@[simp] theorem loadLine_pPlacement (px : List Pixel) (s : State) : (loadLine px s).pPlacement = s.pPlacement := rfl
@[simp] theorem loadLine_pPinmap (px : List Pixel) (s : State) : (loadLine px s).pPinmap = s.pPinmap := rfl
@[simp] theorem loadLine_pAlign (px : List Pixel) (s : State) : (loadLine px s).pAlign = s.pAlign := rfl
@[simp] theorem loadLine_fb (px : List Pixel) (s : State) : (loadLine px s).fb = s.fb := rfl
@[simp] theorem loadLine_hcnt (px : List Pixel) (s : State) : (loadLine px s).hcnt = s.hcnt := rfl
@[simp] theorem loadLine_vcnt (px : List Pixel) (s : State) : (loadLine px s).vcnt = s.vcnt := rfl
@[simp] theorem loadLine_linebuf (px : List Pixel) (s : State) : (loadLine px s).linebuf = .val px := rfl
@[simp] theorem loadLine_prgPc (px : List Pixel) (s : State) : (loadLine px s).prgPc = s.prgPc := rfl
@[simp] theorem loadLine_prgState (px : List Pixel) (s : State) : (loadLine px s).prgState = s.prgState := rfl
@[simp] theorem loadLine_buStep (px : List Pixel) (s : State) : (loadLine px s).buStep = s.buStep := rfl
@[simp] theorem loadLine_buState (px : List Pixel) (s : State) : (loadLine px s).buState = s.buState := rfl
@[simp] theorem loadLine_buErr (px : List Pixel) (s : State) : (loadLine px s).buErr = s.buErr := rfl
@[simp] theorem loadLine_trace (px : List Pixel) (s : State) : (loadLine px s).trace = s.trace := rfl
@[simp] theorem loadLine_panel (px : List Pixel) (s : State) : (loadLine px s).panel = s.panel := rfl
@[simp] theorem loadLine_program (px : List Pixel) (s : State) : (loadLine px s).program = s.program := rfl
@[simp] theorem loadLine_thread (px : List Pixel) (s : State) : (loadLine px s).thread = s.thread := rfl
@[simp] theorem loadLine_result (px : List Pixel) (s : State) : (loadLine px s).result = s.result := rfl
@[simp] theorem loadLine_draws (px : List Pixel) (s : State) : (loadLine px s).draws = s.draws := rfl

end Sys2Proof.Machine
end

