-- ==== Sys2Proof/Laws/Engine.lean ====
section
/-! SUPPORT. Everything a step of the scan-out engine can do, and that a seam does no more. -/

namespace Sys2Proof.Machine

/-- A state with other engine registers, trace and draws. -/
def withEngine (h v : Xv Nat) (l : Xv (List Pixel)) (tr : List Event) (d : Draws) (s : State) :
    State := { s with hcnt := h, vcnt := v, linebuf := l, trace := tr, draws := d }

/-- What the engine can do to a state: it writes its counters and its line buffer, appends
`Line` events and makes draws; everything else stays. -/
structure EngineOnly (s t : State) : Prop where
  frame : t = withEngine t.hcnt t.vcnt t.linebuf t.trace t.draws s
  lines : ∃ ls : List Event, (∀ e ∈ ls, e.isLine = true) ∧ t.trace = s.trace ++ ls

theorem EngineOnly.refl (s : State) : EngineOnly s s := ⟨rfl, [], by simp, by simp⟩

theorem EngineOnly.trans {s t u : State} (h : EngineOnly s t) (k : EngineOnly t u) :
    EngineOnly s u := by
  obtain ⟨l1, hl1, e1⟩ := h.lines
  obtain ⟨l2, hl2, e2⟩ := k.lines
  refine ⟨?_, l1 ++ l2, ?_, by rw [e2, e1, List.append_assoc]⟩
  · have a := k.frame; rw [h.frame] at a; exact a
  · intro e he
    rcases List.mem_append.mp he with he | he
    · exact hl1 e he
    · exact hl2 e he

/-- A change of the draws alone. -/
theorem EngineOnly.ofDraws (s : State) (d : Draws) : EngineOnly s (setDraws d s) :=
  ⟨rfl, [], by simp, by simp⟩

theorem fetchLine_engine {tc : TimingConfig} {h v : Nat} {s t : State}
    (hf : fetchLine tc h v s = .ok t) : EngineOnly s t := by
  unfold fetchLine at hf
  split at hf
  · split at hf
    · cases hf; exact .refl s
    · next y _ =>
      split at hf
      · cases hf
      · next px s' hm =>
        obtain ⟨m, _, _, _, _, rfl⟩ := memRead_ok hm
        cases hf
        exact ⟨rfl, [.line y px], by simp [Event.isLine], rfl⟩
  · cases hf; exact .refl s

/-- A fetch leaves the counters. -/
theorem fetchLine_counters {tc : TimingConfig} {h v : Nat} {s t : State}
    (hf : fetchLine tc h v s = .ok t) : t.hcnt = s.hcnt ∧ t.vcnt = s.vcnt := by
  unfold fetchLine at hf
  split at hf
  · split at hf
    · cases hf; exact ⟨rfl, rfl⟩
    · split at hf
      · cases hf
      · next px s' hm =>
        obtain ⟨m, _, _, _, _, rfl⟩ := memRead_ok hm
        cases hf
        exact ⟨rfl, rfl⟩
  · cases hf; exact ⟨rfl, rfl⟩

theorem advanceCounters_engine (tc : TimingConfig) (h v : Nat) (s : State) :
    EngineOnly s (advanceCounters tc h v s) := by
  unfold advanceCounters nextLine
  split
  · split <;> exact ⟨rfl, [], by simp, by simp [readX]⟩
  · exact ⟨rfl, [], by simp, by simp⟩

theorem pixelClock_engine {s t : State} (h : pixelClock s = .ok t) : EngineOnly s t := by
  unfold pixelClock at h
  split at h
  · simp only at h
    split at h
    · cases h
    · next s4 hf =>
      cases h
      exact (EngineOnly.ofDraws s _).trans
        ((fetchLine_engine hf).trans (advanceCounters_engine _ _ _ _))
  · cases h; exact .refl s

theorem pixelClocks_engine (k : Nat) : ∀ {s t : State}, pixelClocks k s = .ok t →
    EngineOnly s t := by
  induction k with
  | zero => intro s t h; cases h; exact .refl s
  | succ k ih =>
    intro s t h
    rw [pixelClocks] at h
    split at h
    · cases h
    · next s' h' => exact (pixelClock_engine h').trans (ih h)

/-- A seam does no more than the engine can. -/
theorem seam_engine {s t : State} (h : seam s = .ok t) : EngineOnly s t := by
  unfold seam at h
  split at h
  · exact (EngineOnly.ofDraws s _).trans (pixelClocks_engine _ h)
  · cases h; exact .refl s

/-- Without streaming a seam does nothing. -/
theorem seam_idle {s : State} (h : s.pState ≠ .streaming) : seam s = .ok s := by
  unfold seam; split
  · next h' => exact absurd h' h
  · rfl

/-- Without streaming a pixel clock does nothing. -/
theorem pixelClock_idle {s : State} (h : s.pState ≠ .streaming) : pixelClock s = .ok s := by
  unfold pixelClock; split
  · next h' => exact absurd h' h
  · rfl

/-- The engine appends no event of the controlling thread. -/
theorem EngineOnly.threadEvents {s t : State} (h : EngineOnly s t) :
    threadEvents t.trace = threadEvents s.trace := by
  obtain ⟨ls, hl, e⟩ := h.lines
  rw [e]
  have : ls.filter (fun e => !e.isLine) = [] := by
    rw [List.filter_eq_nil_iff]; intro a ha; simp [hl a ha]
  simp [Machine.threadEvents, this]

/-! ## The engine where the invariant holds -/

/-- An active row of the raster is a row of the buffer. -/
theorem activeRow_lt {tc : TimingConfig} {v y : Nat} (h : activeRow tc v = some y) :
    y < tc.vRes := by
  unfold activeRow framePhase phaseOf at h
  split at h
  · next h' =>
    split at h'
    · cases h'
    · split at h'
      · cases h'
      · split at h'
        · cases h'; cases h; omega
        · cases h'
  · cases h

/-- A row of the buffer lies inside it. -/
theorem row_inside {w n y : Nat} (h : y < n) : cellIndex w 0 y + w ≤ w * n := by
  have : w * (y + 1) ≤ w * n := Nat.mul_le_mul_left w h
  rw [cellIndex, Nat.mul_comm y w]; rw [Nat.mul_add, Nat.mul_one] at this; omega

/-- The counters stay in their ranges (R37). -/
theorem advanceCounters_counters {tc : TimingConfig} {h v : Nat} (s : State)
    (hc : CounterInv tc h v) : ∃ h' v', (advanceCounters tc h v s).hcnt = .val h' ∧
      (advanceCounters tc h v s).vcnt = .val v' ∧ CounterInv tc h' v' := by
  unfold advanceCounters nextLine
  split
  · split
    · next h0 =>
      exact ⟨_, _, rfl, rfl, fun hp => hp, fun hp => by omega⟩
    · next h0 =>
      exact ⟨_, _, rfl, rfl, fun hp => hp, fun hp => Nat.mod_lt _ hp⟩
  · exact ⟨_, _, rfl, rfl, fun hp => by have := hc.column hp; omega, hc.row⟩

/-- R183 inside the buffer: the fetch succeeds. -/
theorem fetchLine_total {tc : TimingConfig} {m : Memory} {s : State} (h v : Nat)
    (hm : s.fb = some m) (hs : m.size = tc.hRes * tc.vRes) : ∃ t, fetchLine tc h v s = .ok t := by
  unfold fetchLine
  split
  · split
    · exact ⟨_, rfl⟩
    · next y hy =>
      rw [memRead_eq hm (by rw [hs]; exact row_inside (activeRow_lt hy))]
      exact ⟨_, rfl⟩
  · exact ⟨_, rfl⟩

/-- R21: a fetch leaves the line buffer as it is or loads it with one line. -/
theorem fetchLine_linebuf {tc : TimingConfig} {h v : Nat} {s t : State}
    (hf : fetchLine tc h v s = .ok t) (hl : ∀ px, s.linebuf = .val px → px.length = tc.hRes) :
    ∀ px, t.linebuf = .val px → px.length = tc.hRes := by
  unfold fetchLine at hf
  split at hf
  · split at hf
    · cases hf; exact hl
    · split at hf
      · cases hf
      · next px s' hm =>
        obtain ⟨_, _, _, _, hlen, _⟩ := memRead_ok hm
        cases hf
        intro px' hpx'
        cases hpx'; exact hlen
  · cases hf; exact hl

/-- The counter step leaves the line buffer. -/
theorem advanceCounters_linebuf (tc : TimingConfig) (h v : Nat) (s : State) :
    (advanceCounters tc h v s).linebuf = s.linebuf := by
  unfold advanceCounters nextLine; split
  · split <;> rfl
  · rfl

/-- A pixel clock while streaming, from known registers. -/
theorem pixelClock_eq {s : State} {tc : TimingConfig} {h v : Nat} (hp : s.pState = .streaming)
    (htc : s.tc = .val tc) (hh : s.hcnt = .val h) (hv : s.vcnt = .val v) :
    pixelClock s = (fetchLine tc h v s).map (advanceCounters tc h v) := by
  simp only [pixelClock, hp, htc, readX_val, hh, hv]
  cases fetchLine tc h v s <;> rfl

/-- R184: the pixel on the bus during a pixel clock is that of the line buffer which this clock
leaves, since its fetch comes first and the counter step leaves the line buffer. -/
theorem busPixelAtClock_eq {s t : State} {tc : TimingConfig} {h v : Nat}
    (hp : s.pState = .streaming) (htc : s.tc = .val tc) (hh : s.hcnt = .val h)
    (hv : s.vcnt = .val v) (ht : pixelClock s = .ok t) :
    busPixelAtClock s = .ok (busPixel { s with linebuf := t.linebuf }) := by
  rw [pixelClock_eq hp htc hh hv] at ht
  simp only [busPixelAtClock, hp, htc, hh, hv]
  cases hf : fetchLine tc h v s with
  | error f => rw [hf] at ht; cases ht
  | ok u =>
    rw [hf] at ht
    cases ht
    obtain ⟨hu, -⟩ := fetchLine_engine hf
    have hc := fetchLine_counters hf
    have hpu : u.pState = s.pState := by rw [hu]; rfl
    have htu : u.tc = s.tc := by rw [hu]; rfl
    simp only [advanceCounters_linebuf, busPixel, hpu, htu, hc.1, hc.2, hp, htc, hh, hv]

/-- A pixel clock from a state with the interface's invariant succeeds and keeps it. -/
theorem pixelClock_keeps {P : Params} {s : State} (hi : ParallelInv P s) :
    ∃ t, pixelClock s = .ok t ∧ ParallelInv P t := by
  by_cases hp : s.pState = .streaming
  · obtain ⟨tc, h, v, htc, hh, hv, hc⟩ := hi.counting hp
    obtain ⟨tc', m, ci⟩ := hi.configured (by rw [hp]; decide)
    obtain rfl : tc = tc' := by have := htc.symm.trans ci.timing; injection this
    obtain ⟨s4, hf⟩ := fetchLine_total h v ci.buffer ci.size
    refine ⟨_, by rw [pixelClock_eq hp htc hh hv, hf]; rfl, ?_⟩
    have e3 := ((fetchLine_engine hf).trans (advanceCounters_engine tc h v s4)).frame
    obtain ⟨h', v', eh, ev, hc'⟩ := advanceCounters_counters s4 hc
    have el := advanceCounters_linebuf tc h v s4
    have hl := fetchLine_linebuf hf ci.line
    rw [← el] at hl
    generalize advanceCounters tc h v s4 = t at *
    have q : t.pState = .streaming := by rw [e3]; exact hp
    refine ⟨?_, ?_, ?_, ?_, ?_⟩
    · intro hq; rw [q] at hq; cases hq
    · intro _
      refine ⟨tc, m, ?_⟩
      constructor
      · rw [e3]; exact ci.timing
      · rw [e3]; exact ci.width
      · rw [e3]; exact ci.align
      · rw [e3]; exact ci.pinmap
      · rw [e3]; exact ci.placement
      · exact ci.inRange
      · exact ci.clock
      · rw [e3]; exact ci.buffer
      · exact ci.size
      · exact ci.canonical
      · exact hl
    · intro hq; rw [q] at hq; cases hq
    · intro hq; rw [q] at hq; cases hq
    · intro _
      exact ⟨tc, h', v', by rw [e3]; exact htc, eh, ev, hc'⟩
  · exact ⟨s, pixelClock_idle hp, hi⟩

theorem pixelClocks_keeps {P : Params} (k : Nat) : ∀ {s : State}, ParallelInv P s →
    ∃ t, pixelClocks k s = .ok t ∧ ParallelInv P t := by
  induction k with
  | zero => intro s hi; exact ⟨s, rfl, hi⟩
  | succ k ih =>
    intro s hi
    obtain ⟨s', h', hi'⟩ := pixelClock_keeps hi
    obtain ⟨t, ht, hi''⟩ := ih hi'
    exact ⟨t, by rw [pixelClocks, h']; exact ht, hi''⟩

/-- The interface's invariant speaks of ten fields only. -/
theorem ParallelInv.of_eq {P : Params} {s t : State} (hi : ParallelInv P s)
    (e1 : t.pState = s.pState) (e2 : t.tc = s.tc) (e3 : t.pWidth = s.pWidth)
    (e4 : t.pPlacement = s.pPlacement) (e5 : t.pPinmap = s.pPinmap) (e6 : t.pAlign = s.pAlign)
    (e7 : t.fb = s.fb) (e8 : t.hcnt = s.hcnt) (e9 : t.vcnt = s.vcnt)
    (e10 : t.linebuf = s.linebuf) : ParallelInv P t := by
  constructor
  · rw [e1, e7]; exact hi.absent
  · rw [e1]; intro h
    obtain ⟨tc, m, ci⟩ := hi.configured h
    exact ⟨tc, m, ⟨e2 ▸ ci.timing, e3 ▸ ci.width, e6 ▸ ci.align, e5 ▸ ci.pinmap,
      e4 ▸ ci.placement, ci.inRange, ci.clock, e7 ▸ ci.buffer, ci.size, ci.canonical,
      e10 ▸ ci.line⟩⟩
  · rw [e1, e8, e9]; exact hi.unknown
  · rw [e1, e8, e9]; exact hi.zeroed
  · rw [e1, e2, e8, e9]; exact hi.counting

/-- The interface's invariant speaks of no draw. -/
theorem ParallelInv.ofDraws {P : Params} {s : State} (hi : ParallelInv P s) (d : Draws) :
    ParallelInv P (setDraws d s) :=
  hi.of_eq rfl rfl rfl rfl rfl rfl rfl rfl rfl rfl

/-- A seam from a state with the interface's invariant succeeds, keeps it, and does no more than
the engine can. -/
theorem seam_keeps {P : Params} {s : State} (hi : ParallelInv P s) :
    ∃ t, seam s = .ok t ∧ ParallelInv P t ∧ EngineOnly s t := by
  by_cases hp : s.pState = .streaming
  · have e : seam s = pixelClocks (drawClocks s).1 (drawClocks s).2 := by
      simp only [seam, hp]
    have hi' : ParallelInv P (drawClocks s).2 := by
      exact hi.ofDraws _
    obtain ⟨t, ht, hi''⟩ := pixelClocks_keeps (drawClocks s).1 hi'
    rw [← e] at ht
    exact ⟨t, ht, hi'', seam_engine ht⟩
  · exact ⟨s, seam_idle hp, hi, .refl s⟩

/-! ## What the fetched lines show -/

/-- Whether the pixels `px` show row `y` of the frame buffer of `s`, in its cells that hold a
pixel. -/
def RowShown (s : State) (w y : Nat) (px : List Pixel) : Prop :=
  ∀ (x : Nat) (p : Pixel), x < w → fbCell s (y * w + x) = .val p → px[x]? = some p

/-- A row that two states hold alike is shown by the same pixels. -/
theorem RowShown.of_eq {s t : State} {w y : Nat} {px : List Pixel} (h : RowShown s w y px)
    (e : ∀ x, x < w → fbCell t (y * w + x) = fbCell s (y * w + x)) : RowShown t w y px :=
  fun x p hx hp => h x p hx (by rw [← e x hx]; exact hp)

/-- Every `Line` event among `ls` has a whole line and shows its row. -/
def LinesShow (s : State) (w : Nat) (ls : List Event) : Prop :=
  ∀ (y : Nat) (px : List Pixel), .line y px ∈ ls → px.length = w ∧ RowShown s w y px

theorem fbCell_congr {s t : State} (h : t.fb = s.fb) (a : Nat) : fbCell t a = fbCell s a := by
  unfold fbCell; rw [h]

theorem fetchLine_shows {tc : TimingConfig} {h v : Nat} {s t : State}
    (hf : fetchLine tc h v s = .ok t) :
    ∃ ls, t.trace = s.trace ++ ls ∧ LinesShow s tc.hRes ls := by
  unfold fetchLine at hf
  split at hf
  · split at hf
    · cases hf; exact ⟨[], by simp, by simp [LinesShow]⟩
    · next y _ =>
      split at hf
      · cases hf
      · next px s' hm =>
        obtain ⟨m, hb, _, hpx, hlen, rfl⟩ := memRead_ok hm
        cases hf
        refine ⟨[.line y px], rfl, ?_⟩
        intro y' px' hl
        obtain ⟨rfl, rfl⟩ : y' = y ∧ px' = px := by simpa using hl
        refine ⟨hlen, fun x p hx hp => ?_⟩
        rw [hpx]
        refine readCells_val m tc.hRes _ _ x p hx ?_
        simp only [fbCell, hb] at hp
        exact hp
  · cases hf; exact ⟨[], by simp, by simp [LinesShow]⟩

theorem pixelClock_shows {tc : TimingConfig} {s t : State} (htc : s.tc = .val tc)
    (h : pixelClock s = .ok t) : ∃ ls, t.trace = s.trace ++ ls ∧ LinesShow s tc.hRes ls := by
  unfold pixelClock at h
  split at h
  · simp only [htc, readX_val] at h
    split at h
    · cases h
    · next s4 hf =>
      cases h
      obtain ⟨ls, e, k⟩ := fetchLine_shows hf
      refine ⟨ls, ?_, fun y px hl => ⟨(k y px hl).1, ?_⟩⟩
      · have : ∀ (a b : Nat) (u : State), (advanceCounters tc a b u).trace = u.trace := by
          intro a b u; unfold advanceCounters nextLine
          split
          · split <;> rfl
          · rfl
        rw [this, e]; rfl
      · exact (k y px hl).2.of_eq fun _ _ => rfl
  · cases h; exact ⟨[], by simp, by simp [LinesShow]⟩

theorem pixelClocks_shows {tc : TimingConfig} (k : Nat) : ∀ {s t : State}, s.tc = .val tc →
    pixelClocks k s = .ok t → ∃ ls, t.trace = s.trace ++ ls ∧ LinesShow s tc.hRes ls := by
  induction k with
  | zero => intro s t _ h; cases h; exact ⟨[], by simp, by simp [LinesShow]⟩
  | succ k ih =>
    intro s t htc h
    rw [pixelClocks] at h
    split at h
    · cases h
    · next s' h' =>
      have e := pixelClock_engine h'
      obtain ⟨l1, e1, k1⟩ := pixelClock_shows htc h'
      obtain ⟨l2, e2, k2⟩ := ih (by rw [e.frame]; exact htc) h
      refine ⟨l1 ++ l2, by rw [e2, e1, List.append_assoc], ?_⟩
      intro y px hl
      rcases List.mem_append.mp hl with hl | hl
      · exact k1 y px hl
      · have hfb : s.fb = s'.fb := by rw [e.frame]; rfl
        exact ⟨(k2 y px hl).1, (k2 y px hl).2.of_eq fun _ _ => fbCell_congr hfb _⟩

/-- R183 at a seam: every line fetched there shows its row. -/
theorem seam_shows {tc : TimingConfig} {s t : State} (htc : s.tc = .val tc)
    (h : seam s = .ok t) : ∃ ls, t.trace = s.trace ++ ls ∧ LinesShow s tc.hRes ls := by
  unfold seam at h
  split at h
  · obtain ⟨ls, e, k⟩ := pixelClocks_shows _ (s := (drawClocks s).2) htc h
    exact ⟨ls, e, fun y px hl => ⟨(k y px hl).1, (k y px hl).2.of_eq fun _ _ => rfl⟩⟩
  · cases h; exact ⟨[], by simp, by simp [LinesShow]⟩

end Sys2Proof.Machine
end

