-- ==== Sys2Proof/Laws/PinMux.lean ====
section
/-! SUPPORT. Everything `CONFIGURE_OUTPUT`, `SET_LEVEL` and `TIMED_RESET_SEQUENCE` can do. -/

namespace Sys2Proof.Machine

/-- R152: every end of `CONFIGURE_OUTPUT`. -/
theorem configureOutputOp_ends (P : Params) (pin : PinId) (s : State) :
    (configureOutputOp P pin s).Ends
      (fun v t => v = .handle pin ∧
        ((pin = P.pinShared ∧ s.role = .unassigned ∧
            t = { s with
              role := .digitalResetOutput,
              trace := s.trace ++ [.role P.pinShared .digitalResetOutput] }) ∨
         (pin = P.pinShared ∧ s.role = .digitalResetOutput ∧ t = s) ∨
         (pin ≠ P.pinShared ∧ pin = P.pinBl ∧ t = { s with blCfg := true })))
      (fun e t => e = .configError .pinOwnedByTimingGenerator ∧ pin = P.pinShared ∧
        s.role = .hardwareSyncSignal ∧ t = s)
      (fun _ => False)
      (fun r => r = .pinOutsideBlock ∧ pin ≠ P.pinShared ∧ pin ≠ P.pinBl) (fun _ => False) := by
  unfold configureOutputOp
  by_cases h1 : pin = P.pinShared
  · subst h1
    rw [if_pos rfl]
    cases h : s.role
    · exact ⟨rfl, .inl ⟨rfl, rfl, rfl⟩⟩
    · exact ⟨rfl, .inr (.inl ⟨rfl, rfl, rfl⟩)⟩
    · exact ⟨rfl, rfl, rfl, rfl⟩
  · rw [if_neg h1]
    by_cases h2 : pin = P.pinBl
    · subst h2
      rw [if_pos rfl]
      exact ⟨rfl, .inr (.inr ⟨h1, rfl, rfl⟩)⟩
    · rw [if_neg h2]
      exact ⟨rfl, h1, h2⟩

/-- R154, R155: every end of `SET_LEVEL`. -/
theorem setLevelOp_ends (P : Params) (h : PinId) (l : Level) (s : State) :
    (setLevelOp P h l s).Ends
      (fun v t => v = .none ∧
        ((h = P.pinShared ∧ s.role = .digitalResetOutput ∧
            t = { s with
              rstLevel := .val l, panel := .unknown, trace := s.trace ++ [.level h l] }) ∨
         (h ≠ P.pinShared ∧ h = P.pinBl ∧ s.blCfg = true ∧
            t = { s with blLevel := .val l, trace := s.trace ++ [.level h l] })))
      (fun e t => e = .configError .pinOwnedByTimingGenerator ∧ h = P.pinShared ∧
        s.role = .hardwareSyncSignal ∧ t = s)
      (fun _ => False)
      (fun r => (r = .handleNotConfigured ∧
          ((h = P.pinShared ∧ s.role = .unassigned) ∨
           (h ≠ P.pinShared ∧ h = P.pinBl ∧ s.blCfg = false))) ∨
        (r = .pinOutsideBlock ∧ h ≠ P.pinShared ∧ h ≠ P.pinBl))
      (fun _ => False) := by
  unfold setLevelOp
  by_cases h1 : h = P.pinShared
  · subst h1
    rw [if_pos rfl]
    cases hr : s.role
    · exact .inl ⟨rfl, .inl ⟨rfl, rfl⟩⟩
    · exact ⟨rfl, .inl ⟨rfl, rfl, rfl⟩⟩
    · exact ⟨rfl, rfl, rfl, rfl⟩
  · rw [if_neg h1]
    by_cases h2 : h = P.pinBl
    · subst h2
      rw [if_pos rfl]
      cases hb : s.blCfg
      · exact .inl ⟨rfl, .inr ⟨h1, rfl, rfl⟩⟩
      · exact ⟨rfl, .inr ⟨h1, rfl, rfl, rfl⟩⟩
    · rw [if_neg h2]
      exact .inr ⟨rfl, h1, h2⟩

/-- From `s`, the thread has appended the events `evs` and the engine has run beside it; nothing
but the engine's own registers, the trace and the draws differs. -/
structure AfterEvents (evs : List Event) (s t : State) : Prop where
  frame  : t = withEngine t.hcnt t.vcnt t.linebuf t.trace t.draws s
  events : ∃ tr, t.trace = s.trace ++ tr ∧ threadEvents tr = evs

theorem AfterEvents.refl (s : State) : AfterEvents [] s s := ⟨rfl, [], by simp, rfl⟩

/-- The engine runs on. -/
theorem AfterEvents.engine {evs : List Event} {s t u : State} (h : AfterEvents evs s t)
    (k : EngineOnly t u) : AfterEvents evs s u := by
  obtain ⟨tr, et, ev⟩ := h.events
  obtain ⟨ls, hl, eu⟩ := k.lines
  refine ⟨?_, tr ++ ls, by rw [eu, et, List.append_assoc], ?_⟩
  · have a := k.frame; rw [h.frame] at a; exact a
  · have : ls.filter (fun e => !e.isLine) = [] := by
      rw [List.filter_eq_nil_iff]; intro a ha; simp [hl a ha]
    rw [threadEvents, List.filter_append, this, List.append_nil]; exact ev

/-- The thread appends one event. -/
theorem AfterEvents.emit {evs : List Event} {s t : State} (h : AfterEvents evs s t) (e : Event)
    (he : e.isLine = false) : AfterEvents (evs ++ [e]) s (emit e t) := by
  obtain ⟨tr, et, ev⟩ := h.events
  refine ⟨?_, tr ++ [e], ?_, ?_⟩
  · have a := h.frame
    rw [a]; rfl
  · rw [emit_trace, et, List.append_assoc]
  · rw [threadEvents, List.filter_append, ← ev]; simp [he, threadEvents]

/-- The thread sets the shared pin's latch. -/
theorem AfterEvents.shared {evs : List Event} {s t : State} (h : AfterEvents evs s t)
    (l : Level) (p : Panel) : AfterEvents evs { s with rstLevel := .val l, panel := p }
      { t with rstLevel := .val l, panel := p } := by
  refine ⟨?_, h.events⟩
  have a := h.frame
  rw [a]; rfl

/-- The thread sets the backlight pin's latch. -/
theorem AfterEvents.backlight {evs : List Event} {s t : State} (h : AfterEvents evs s t)
    (l : Level) : AfterEvents evs { s with blLevel := .val l } { t with blLevel := .val l } := by
  refine ⟨?_, h.events⟩
  have a := h.frame
  rw [a]; rfl

/-- R156: the six events of the sequence. -/
def resetEvents (h : PinId) : List Event :=
  [.level h true, .wait 10, .level h false, .wait 50, .level h true, .wait 100]

/-- A seam of a state whose end is known but for the engine. -/
theorem seam_ends {evs : List Event} {s t : State} {k : State → OpOut}
    {p : Value → State → Prop} {e : Err → State → Prop} {w : State → Prop}
    {r : Refusal → Prop} {F : Prop} (hF : s.pState = .streaming → F) (h : AfterEvents evs s t)
    (hk : ∀ u, AfterEvents evs s u → (k u).Ends p e w r fun _ => F) :
    (afterPart (seam t) k).Ends p e w r fun _ => F := by
  refine afterPart_ends (fun u hu => hk u (h.engine (seam_engine hu))) fun y hy => hF ?_
  by_cases hp : t.pState = .streaming
  · rw [h.frame] at hp; exact hp
  · rw [seam_idle hp] at hy; cases hy

/-- The sequence of six calls where every `SET_LEVEL` of it ends `ok`, with `latch` the state
that has the handle's latch set. -/
theorem resetCalls_ends (P : Params) (h : PinId) (s : State) (latch : Level → State → State)
    (hp : ∀ l t, (latch l t).pState = t.pState)
    (hset : ∀ evs l l' t, AfterEvents evs (latch l' s) t ∨ AfterEvents evs s t →
      ∃ t', setLevelOp P h l t = .ok .none t' ∧
        AfterEvents (evs ++ [.level h l]) (latch l s) t') :
    (inSequence (resetCalls P h) s).Ends
      (fun v t => v = .none ∧ AfterEvents (resetEvents h) (latch true s) t)
      (fun _ _ => False) (fun _ => False) (fun _ => False)
      (fun _ => s.pState = .streaming) := by
  have hF : ∀ l, (latch l s).pState = .streaming → s.pState = .streaming :=
    fun l => by rw [hp]; exact id
  simp only [resetCalls, inSequence]
  obtain ⟨t1, e1, a1⟩ := hset [] true true s (.inr (.refl s))
  rw [e1]
  refine seam_ends (hF _) a1 fun u1 b1 => ?_
  refine seam_ends (hF _) (b1.emit (.wait 10) rfl) fun u2 b2 => ?_
  obtain ⟨t3, e3, a3⟩ := hset _ false true u2 (.inl b2)
  rw [e3]
  refine seam_ends (hF _) a3 fun u3 b3 => ?_
  refine seam_ends (hF _) (b3.emit (.wait 50) rfl) fun u4 b4 => ?_
  obtain ⟨t5, e5, a5⟩ := hset _ true false u4 (.inl b4)
  rw [e5]
  refine seam_ends (hF _) a5 fun u5 b5 => ?_
  exact ⟨rfl, b5.emit (.wait 100) rfl⟩

/-- R156, R157: the sequence on the shared pin while it is the reset output. -/
theorem timedResetOp_shared (P : Params) (s : State) (hr : s.role = .digitalResetOutput) :
    (timedResetOp P P.pinShared s).Ends
      (fun v t => v = .none ∧ AfterEvents (resetEvents P.pinShared)
        { s with rstLevel := .val true, panel := .reset } t)
      (fun _ _ => False) (fun _ => False) (fun _ => False) (fun _ => s.pState = .streaming) := by
  refine (resetCalls_ends P P.pinShared s
    (fun l t => { t with rstLevel := .val l, panel := .unknown }) (fun _ _ => rfl) ?_).call ?_
  · intro evs l l' t h
    have ht : t.role = .digitalResetOutput := by
      rcases h with h | h <;> (rw [h.frame]; exact hr)
    refine ⟨panelAfterResetLine (emit (.level P.pinShared l) { t with rstLevel := .val l }), ?_, ?_⟩
    · rw [setLevelOp, if_pos rfl]
      split
      · next k => rw [ht] at k; cases k
      · next k => rw [ht] at k; cases k
      · rfl
    rcases h with h | h
    · exact (h.shared l .unknown).emit (.level P.pinShared l) rfl
    · exact (h.shared l .unknown).emit (.level P.pinShared l) rfl
  · rintro v t ⟨-, h⟩
    refine ⟨rfl, ?_⟩
    rw [panelAfterResetSequence, if_pos rfl]
    exact ⟨by have a := h.frame; rw [a]; rfl, h.events⟩

/-- R156: the sequence on the backlight pin while it is an output. -/
theorem timedResetOp_backlight (P : Params) (s : State) (hne : P.pinBl ≠ P.pinShared)
    (hb : s.blCfg = true) :
    (timedResetOp P P.pinBl s).Ends
      (fun v t => v = .none ∧ AfterEvents (resetEvents P.pinBl) { s with blLevel := .val true } t)
      (fun _ _ => False) (fun _ => False) (fun _ => False) (fun _ => s.pState = .streaming) := by
  refine (resetCalls_ends P P.pinBl s (fun l t => { t with blLevel := .val l }) (fun _ _ => rfl)
    ?_).call ?_
  · intro evs l l' t h
    have ht : t.blCfg = true := by
      rcases h with h | h <;> (rw [h.frame]; exact hb)
    refine ⟨_, by rw [setLevelOp, if_neg hne, if_pos rfl, if_pos ht], ?_⟩
    rcases h with h | h
    · exact (h.backlight l).emit (.level P.pinBl l) rfl
    · exact (h.backlight l).emit (.level P.pinBl l) rfl
  · rintro v t ⟨-, h⟩
    refine ⟨rfl, ?_⟩
    rw [panelAfterResetSequence, if_neg hne]
    exact h

/-- R156: every end of `TIMED_RESET_SEQUENCE`; an end other than `ok` comes from its first
`SET_LEVEL`, before anything has changed. -/
theorem timedResetOp_ends (P : Params) (h : PinId) (s : State) :
    (timedResetOp P h s).Ends
      (fun v t => v = .none ∧
        ((h = P.pinShared ∧ s.role = .digitalResetOutput ∧ AfterEvents (resetEvents h)
            { s with rstLevel := .val true, panel := .reset } t) ∨
         (h ≠ P.pinShared ∧ h = P.pinBl ∧ s.blCfg = true ∧
            AfterEvents (resetEvents h) { s with blLevel := .val true } t)))
      (fun e t => e = .configError .pinOwnedByTimingGenerator ∧ h = P.pinShared ∧
        s.role = .hardwareSyncSignal ∧ t = s)
      (fun _ => False)
      (fun r => (r = .handleNotConfigured ∧
          ((h = P.pinShared ∧ s.role = .unassigned) ∨
           (h ≠ P.pinShared ∧ h = P.pinBl ∧ s.blCfg = false))) ∨
        (r = .pinOutsideBlock ∧ h ≠ P.pinShared ∧ h ≠ P.pinBl))
      (fun _ => s.pState = .streaming) := by
  by_cases h1 : h = P.pinShared
  · subst h1
    by_cases hr : s.role = .digitalResetOutput
    · exact (timedResetOp_shared P s hr).mono (fun v t k => ⟨k.1, .inl ⟨rfl, hr, k.2⟩⟩)
        (fun _ _ => False.elim) (fun _ => False.elim) (fun _ => False.elim) fun _ => id
    · have hs := setLevelOp_ends P P.pinShared true s
      unfold timedResetOp resetCalls
      rw [inSequence]
      generalize setLevelOp P P.pinShared true s = o at hs
      cases o with
      | ok v t => rcases hs.2 with k | k
                  · exact absurd k.2.1 hr
                  · exact absurd rfl k.1
      | err e t => exact hs
      | stuck t => exact hs
      | refuse r => exact hs
      | fault f => exact hs.elim
  · by_cases hb : h = P.pinBl ∧ s.blCfg = true
    · obtain ⟨rfl, hb⟩ := hb
      exact (timedResetOp_backlight P s h1 hb).mono
        (fun v t k => ⟨k.1, .inr ⟨h1, rfl, hb, k.2⟩⟩)
        (fun _ _ => False.elim) (fun _ => False.elim) (fun _ => False.elim) fun _ => id
    · have hs := setLevelOp_ends P h true s
      unfold timedResetOp resetCalls
      rw [inSequence]
      generalize setLevelOp P h true s = o at hs
      cases o with
      | ok v t => rcases hs.2 with k | k
                  · exact absurd k.1 h1
                  · exact absurd ⟨k.2.1, k.2.2.1⟩ hb
      | err e t => exact hs
      | stuck t => exact hs
      | refuse r => exact hs
      | fault f => exact hs.elim

/-- R156: the sequence keeps the interface's invariant and does not fault where it holds. -/
theorem timedResetOp_leaves {P Q : Params} {s : State} (h : PinId) (hi : ParallelInv Q s) :
    (timedResetOp P h s).Leaves (ParallelInv Q) (fun _ => False) False := by
  have hset : ∀ l s, ParallelInv Q s →
      (setLevelOp P h l s).Leaves (ParallelInv Q) (fun _ => False) False := by
    intro l s hs
    refine (setLevelOp_ends P h l s).mono ?_ ?_ (fun _ => id) (fun _ _ => trivial) fun _ => id
    · rintro v t ⟨-, ⟨-, -, rfl⟩ | ⟨-, -, -, rfl⟩⟩ <;>
        exact hs.of_eq rfl rfl rfl rfl rfl rfl rfl rfl rfl rfl
    · rintro e t ⟨-, -, -, rfl⟩; exact hs
  have hdelay : ∀ t0 s, ParallelInv Q s →
      (delayOp t0 s).Leaves (ParallelInv Q) (fun _ => False) False :=
    fun t0 s hs => hs.of_eq rfl rfl rfl rfl rfl rfl rfl rfl rfl rfl
  refine (inSequence_leaves ?_ ?_ (resetCalls P h) ?_ s hi).call ?_
  · intro a b ha hb
    obtain ⟨t, ht, hi, -⟩ := seam_keeps ha
    rw [hb] at ht; cases ht; exact hi
  · intro a f ha hf
    obtain ⟨t, ht, -⟩ := seam_keeps ha
    rw [hf] at ht; cases ht
  · intro f hf
    simp only [resetCalls, List.mem_cons, List.not_mem_nil, or_false] at hf
    rcases hf with rfl | rfl | rfl | rfl | rfl | rfl
    · exact hset _
    · exact hdelay _
    · exact hset _
    · exact hdelay _
    · exact hset _
    · exact hdelay _
  · intro t ht
    show ParallelInv Q (panelAfterResetSequence P h t)
    unfold panelAfterResetSequence
    split
    · exact ht.of_eq rfl rfl rfl rfl rfl rfl rfl rfl rfl rfl
    · exact ht

end Sys2Proof.Machine
end

