-- ==== Sys2Proof/Laws/Parallel.lean ====
section
/-! SUPPORT. Everything `P_CONFIGURE`, `P_RESET`, `P_INIT` and `DRAW_RECT` can do. -/

namespace Sys2Proof.Machine

/-- R167: every check of `P_CONFIGURE` after the first passes. -/
theorem configProblem_none {P : Params} {owner : BusOwner} {tc : TimingConfig} {width : Nat}
    {pl : Placement} {pins : List PinId} :
    configProblem P owner tc width pl pins = none ↔
      owner = .free ∧ width = 16 ∧ badPinmap P pins = false ∧ P.timingInRange tc = true ∧
        bufferBytes tc ≤ P.fbCapacity pl ∧ tc.pclkHz ≤ P.pclkMaxHz := by
  unfold configProblem
  constructor
  · intro h
    repeat' split at h
    all_goals first
      | (cases h; done)
      | (refine ⟨?_, ?_, ?_, ?_, ?_, ?_⟩ <;> first | omega | simp_all)
  · rintro ⟨rfl, rfl, h3, h4, h5, h6⟩
    simp [h3, h4, Nat.not_lt.mpr h5, Nat.not_lt.mpr h6]

/-- R166: the data pin map of parameters that meet D27's constraints is a good one. -/
theorem goodPinmap {P : Params} (c : P.Constraints) :
    badPinmap P P.dataPinMap = false := by
  unfold badPinmap
  rw [Bool.or_eq_false_iff]
  refine ⟨by simp [c.dataPinsNodup], ?_⟩
  rw [List.any_eq_false]
  intro q hq
  have h1 := c.pinsValid q (by simp [hq])
  have h2 := c.pinsDistinct.2 q (by simp [hq])
  simp [h1, h2.1, h2.2]

/-- R167, R168, R169: every end of `P_CONFIGURE`. -/
theorem pConfigureOp_ends (P : Params) (tc : TimingConfig) (width : Nat) (pl : Placement)
    (pins : List PinId) (s : State) : (pConfigureOp P tc width pl pins s).Ends
      (fun v t => v = .none ∧ pins.length = 16 ∧ s.pState = .unconfigured ∧ s.busOwner = .free ∧
        width = 16 ∧ badPinmap P pins = false ∧ P.timingInRange tc = true ∧
        bufferBytes tc ≤ P.fbCapacity pl ∧ tc.pclkHz ≤ P.pclkMaxHz ∧
        t = { s with
          busOwner := .parallel, role := .hardwareSyncSignal, pState := .configured,
          tc := .val tc, pWidth := .val 16, pPlacement := .val pl, pPinmap := .val pins,
          pAlign := .val 64, fb := some ⟨tc.hRes * tc.vRes, []⟩,
          hcnt := .x, vcnt := .x, linebuf := .x,
          trace := s.trace ++
            [.busClaim .parallel, .role P.pinShared .hardwareSyncSignal, .parConfigured] })
      (fun e t => (∃ info, e = .configError info) ∧ t = s) (fun _ => False)
      (fun r => (r = .operandOutsideType ∧ pins.length ≠ 16) ∨
        (r = .reconfigure ∧ s.pState ≠ .unconfigured)) (fun _ => False) := by
  unfold pConfigureOp
  by_cases h1 : pins.length = 16
  · rw [if_neg (not_not.mpr h1)]
    by_cases h2 : s.pState = .unconfigured
    · rw [if_neg (not_not.mpr h2)]
      cases hc : configProblem P s.busOwner tc width pl pins with
      | some info => exact ⟨⟨_, rfl⟩, rfl⟩
      | none =>
        obtain ⟨a, rfl, b, c, d, e⟩ := configProblem_none.mp hc
        exact ⟨rfl, h1, h2, a, rfl, b, c, d, e, by
          simp [enterConfigured, handOffSharedPin, latchConfiguration, emit, Memory.create,
            Config.xferAlign]⟩
    · rw [if_pos h2]; exact .inr ⟨rfl, h2⟩
  · rw [if_pos h1]; exact .inl ⟨rfl, h1⟩

/-- R172: every end of `P_RESET`. -/
theorem pResetOp_ends (s : State) : (pResetOp s).Ends
      (fun v t => v = .none ∧ s.pState = .configured ∧
        t = { s with
          hcnt := .val 0, vcnt := .val 0, pState := .resetDone, trace := s.trace ++ [.parReset] })
      (fun _ _ => False) (fun _ => False)
      (fun r => r = .resetOutOfOrder ∧ s.pState ≠ .configured) (fun _ => False) := by
  unfold pResetOp
  by_cases h : s.pState = .configured
  · rw [if_neg (not_not.mpr h)]; exact ⟨rfl, h, rfl⟩
  · rw [if_pos h]; exact ⟨rfl, h⟩

/-- R173: every end of `P_INIT`. -/
theorem pInitOp_ends (s : State) : (pInitOp s).Ends
      (fun v t => v = .none ∧ s.pState = .resetDone ∧
        t = { s with pState := .streaming, trace := s.trace ++ [.streamStart] })
      (fun _ _ => False) (fun _ => False)
      (fun r => r = .initOutOfOrder ∧ s.pState ≠ .resetDone) (fun _ => False) := by
  unfold pInitOp
  by_cases h : s.pState = .resetDone
  · rw [if_neg (not_not.mpr h)]; exact ⟨rfl, h, rfl⟩
  · rw [if_pos h]; exact ⟨rfl, h⟩

/-! ## The copy-in -/

/-- The choice of the next row: one of those left, and the others stay left. -/
theorem nextRow_some {rows : List Nat} (h : rows ≠ []) (s : State) :
    ∃ r rest d, nextRow rows s = (some (r, rest), setDraws d s) ∧ (r :: rest).Perm rows := by
  match rows, h with
  | [r], _ => exact ⟨r, [], s.draws, rfl, .refl _⟩
  | a :: b :: l, _ =>
    have hj : (drawPick s).1 % (a :: b :: l).length < (a :: b :: l).length :=
      Nat.mod_lt _ (by simp)
    refine ⟨(a :: b :: l)[(drawPick s).1 % (a :: b :: l).length],
      (a :: b :: l).eraseIdx ((drawPick s).1 % (a :: b :: l).length), s.draws.nextPick.2, ?_,
      List.getElem_cons_eraseIdx_perm hj⟩
    simp only [nextRow, List.getElem?_eq_getElem hj, Option.map_some]
    rfl

/-- A rectangle's rows `rows`, of `n` pixels each from `(x0, y0)` on, written from `s` to `t`:
each cell of a row holds its pixel, every other cell is as before. -/
structure RowsWritten (w x0 y0 n : Nat) (pixels : List Pixel) (rows : List Nat) (s t : State) :
    Prop where
  written   : ∀ r ∈ rows, ∀ (i : Nat) (p : Pixel), i < n → (rowOf pixels n r)[i]? = some p →
    fbCell t ((y0 + r) * w + x0 + i) = .val p
  untouched : ∀ a, (∀ r ∈ rows, ¬ ((y0 + r) * w + x0 ≤ a ∧ a < (y0 + r) * w + x0 + n)) →
    fbCell t a = fbCell s a

/-- What one row write does to the cells. -/
theorem fbCell_write {s : State} {m : Memory} (hm : s.fb = some m) (a b : Nat) (v : List Pixel) :
    fbCell { s with fb := some { m with cells := setCells a v m.cells } } b =
      if a ≤ b then (match v[b - a]? with | some p => .val p | none => fbCell s b)
      else fbCell s b := by
  simp only [fbCell, hm]
  exact getCell_setCells v a b m.cells

/-- The interface's invariant after a row write. -/
theorem ParallelInv.write {P : Params} {s t : State} {a : Nat} {v : List Pixel}
    (hi : ParallelInv P s) (hp : s.pState ≠ .unconfigured) (h : memWrite a v s = .ok t)
    (e : Event) : ParallelInv P (emit e t) := by
  obtain ⟨tc, m, ci⟩ := hi.configured hp
  obtain ⟨m', hm, hle, rfl⟩ := memWrite_ok h
  obtain rfl : m' = m := by have := hm.symm.trans ci.buffer; injection this
  refine ⟨fun h' => absurd h' hp, fun _ => ⟨tc, { m' with cells := setCells a v m'.cells }, ?_⟩,
    hi.unknown, hi.zeroed, hi.counting⟩
  exact ⟨ci.timing, ci.width, ci.align, ci.pinmap, ci.placement, ci.inRange, ci.clock, rfl,
    ci.size, cellsWf_setCells _ _ _ _ _ (Nat.zero_le a) hle ci.canonical, ci.line⟩

/-- Two cells of different rows differ. -/
theorem row_ne {w y y' x x' : Nat} (hy : y ≠ y') (hx : x < w) (hx' : x' < w) :
    y * w + x ≠ y' * w + x' := by
  intro h
  apply hy
  have a : (y * w + x) / w = y := by
    rw [Nat.add_comm, Nat.add_mul_div_right _ _ (by omega), Nat.div_eq_of_lt hx]; omega
  have b : (y' * w + x') / w = y' := by
    rw [Nat.add_comm, Nat.add_mul_div_right _ _ (by omega), Nat.div_eq_of_lt hx']; omega
  rw [← a, ← b, h]

/-- The rectangle's place in the buffer: `rows` lists rows of it, each inside the buffer and
given by `n` pixels. -/
structure RowsInside (w height x0 y0 n : Nat) (pixels : List Pixel) (rows : List Nat) : Prop where
  columns : x0 + n ≤ w
  row     : ∀ r ∈ rows, y0 + r < height
  pixels  : ∀ r ∈ rows, (rowOf pixels n r).length = n
  nodup   : rows.Nodup

/-- What the copy-in leaves: its rows written in some order, the engine's own registers and lines,
and every line fetched meanwhile shows its row as before or as after. -/
structure CopiedIn (P : Params) (tc : TimingConfig) (x0 y0 n : Nat) (pixels : List Pixel)
    (rows : List Nat) (s t : State) : Prop where
  inv   : ParallelInv P t
  cells : RowsWritten tc.hRes x0 y0 n pixels rows s t
  order : ∃ order : List Nat, order.Perm rows ∧
    AfterEvents (order.map fun r => .rowWrite (y0 + r) x0 (rowOf pixels n r))
      { s with fb := t.fb } t
  lines : ∃ tr, t.trace = s.trace ++ tr ∧ ∀ (y : Nat) (px : List Pixel), .line y px ∈ tr →
    px.length = tc.hRes ∧ (RowShown s tc.hRes y px ∨ RowShown t tc.hRes y px)
  idle  : s.pState ≠ .streaming → t.hcnt = s.hcnt ∧ t.vcnt = s.vcnt ∧ t.linebuf = s.linebuf

/-- R178: one row write inside the buffer. -/
theorem writeRow_eq {P : Params} {tc : TimingConfig} {s : State} {x0 y0 n r : Nat}
    {pixels : List Pixel} {rows : List Nat} (hi : ParallelInv P s)
    (hp : s.pState ≠ .unconfigured) (htc : s.tc = .val tc)
    (hin : RowsInside tc.hRes tc.vRes x0 y0 n pixels rows) (hr : r ∈ rows) (d : Draws) :
    ∃ t, writeRow tc.hRes x0 y0 n pixels r (setDraws d s) = .ok t ∧ ParallelInv P t ∧
      t = { s with
        fb := t.fb, draws := d,
        trace := s.trace ++ [.rowWrite (y0 + r) x0 (rowOf pixels n r)] } ∧
      RowsWritten tc.hRes x0 y0 n pixels [r] s t := by
  obtain ⟨tc', m, ci⟩ := hi.configured hp
  obtain rfl : tc = tc' := by have := htc.symm.trans ci.timing; injection this
  have hlen := hin.pixels r hr
  have hle : cellIndex tc.hRes x0 (y0 + r) + (rowOf pixels n r).length ≤ m.size := by
    rw [ci.size, hlen, cellIndex]
    have h1 := hin.row r hr
    have h2 := hin.columns
    have h3 : (y0 + r + 1) * tc.hRes ≤ tc.vRes * tc.hRes := Nat.mul_le_mul_right _ h1
    rw [Nat.add_mul, Nat.one_mul] at h3
    rw [Nat.mul_comm tc.hRes]; omega
  have hw := memWrite_eq (s := setDraws d s) ci.buffer hle
  refine ⟨_, by rw [writeRow, hw], (hi.ofDraws d).write hp hw _, rfl, ?_, ?_⟩
  · intro q hq i p hin' hpx
    obtain rfl : q = r := by simpa using hq
    have := fbCell_write (s := setDraws d s) ci.buffer (cellIndex tc.hRes x0 (y0 + q))
      ((y0 + q) * tc.hRes + x0 + i) (rowOf pixels n q)
    rw [if_pos (by rw [cellIndex]; omega)] at this
    rw [show (y0 + q) * tc.hRes + x0 + i - cellIndex tc.hRes x0 (y0 + q) = i by
      rw [cellIndex]; omega, hpx] at this
    exact this
  · intro a ha
    have hne := ha r (by simp)
    have := fbCell_write (s := setDraws d s) ci.buffer (cellIndex tc.hRes x0 (y0 + r)) a
      (rowOf pixels n r)
    refine this.trans ?_
    by_cases hle' : cellIndex tc.hRes x0 (y0 + r) ≤ a
    · rw [if_pos hle', List.getElem?_eq_none (by rw [hlen]; rw [cellIndex] at hle' ⊢; omega)]
      rfl
    · rw [if_neg hle']; rfl

/-- Rows written one part after the other. -/
theorem RowsWritten.cons {w x0 y0 n r : Nat} {pixels : List Pixel} {rows rest : List Nat}
    {s t u : State} (h1 : RowsWritten w x0 y0 n pixels [r] s t)
    (h2 : RowsWritten w x0 y0 n pixels rest t u) (hc : x0 + n ≤ w)
    (hp : (r :: rest).Perm rows) (hn : r ∉ rest) : RowsWritten w x0 y0 n pixels rows s u := by
  refine ⟨fun q hq i p hi hpx => ?_, fun a ha => ?_⟩
  · rcases List.mem_cons.mp (hp.mem_iff.mpr hq) with rfl | hq
    · rw [h2.untouched _ ?_]
      · exact h1.written q (by simp) i p hi hpx
      · rintro r' hr' ⟨ha, hb⟩
        have ne : q ≠ r' := fun e => hn (e ▸ hr')
        obtain ⟨x', hx', e⟩ : ∃ x', x' < w ∧ (y0 + q) * w + (x0 + i) = (y0 + r') * w + x' :=
          ⟨(y0 + q) * w + (x0 + i) - (y0 + r') * w, by omega, by omega⟩
        exact row_ne (by omega) (by omega) hx' e
    · exact h2.written q hq i p hi hpx
  · rw [h2.untouched a fun q hq => ha q (hp.mem_iff.mp (List.mem_cons_of_mem _ hq)),
      h1.untouched a fun q hq => ha q (hp.mem_iff.mp (by
        rw [List.mem_singleton] at hq; rw [hq]; exact List.mem_cons_self))]

/-- A row of the buffer that is not among the rows written is as before. -/
theorem RowsWritten.row {w x0 y0 n y : Nat} {pixels : List Pixel} {rows : List Nat}
    {s t : State} (h : RowsWritten w x0 y0 n pixels rows s t) (hc : x0 + n ≤ w)
    (hy : ∀ r ∈ rows, y ≠ y0 + r) (x : Nat) (hx : x < w) :
    fbCell t (y * w + x) = fbCell s (y * w + x) := by
  refine h.untouched _ fun r hr ⟨ha, hb⟩ => ?_
  obtain ⟨x', hx', e⟩ : ∃ x', x' < w ∧ y * w + x = (y0 + r) * w + x' :=
    ⟨y * w + x - (y0 + r) * w, by omega, by omega⟩
  exact row_ne (hy r hr) hx hx' e

/-- R178: the copy-in of the rows that are left. -/
theorem writeRows_ends {P : Params} {tc : TimingConfig} {x0 y0 n : Nat} {pixels : List Pixel} :
    ∀ (fuel : Nat) (rows : List Nat) (s : State), ParallelInv P s → s.pState ≠ .unconfigured →
      s.tc = .val tc → RowsInside tc.hRes tc.vRes x0 y0 n pixels rows → rows ≠ [] →
      rows.length ≤ fuel →
      (writeRows tc.hRes x0 y0 n pixels fuel rows s).Ends
        (fun v t => v = .none ∧ CopiedIn P tc x0 y0 n pixels rows s t)
        (fun _ _ => False) (fun _ => False) (fun _ => False) (fun _ => False)
  | 0, rows, s, _, _, _, _, hne, hl => by
    exact absurd (List.length_eq_zero_iff.mp (Nat.le_zero.mp hl)) hne
  | fuel + 1, rows, s, hi, hp, htc, hin, hne, hl => by
    obtain ⟨r, rest, d, hc, hperm⟩ := nextRow_some hne s
    have hr : r ∈ rows := hperm.mem_iff.mp List.mem_cons_self
    have hnd : (r :: rest).Nodup := hperm.nodup_iff.mpr hin.nodup
    obtain ⟨s1, hw, hi1, e1, c1⟩ := writeRow_eq hi hp htc hin hr d
    have a1 : AfterEvents [.rowWrite (y0 + r) x0 (rowOf pixels n r)]
        { s with fb := s1.fb } s1 :=
      ⟨by rw [e1]; rfl, [.rowWrite (y0 + r) x0 (rowOf pixels n r)], by rw [e1], rfl⟩
    rw [writeRows]
    rw [hc]
    match rest, hperm, hnd with
    | [], hperm, _ =>
      dsimp only
      rw [hw]
      refine ⟨rfl, hi1, ?_, ⟨[r], hperm, a1⟩, ?_, ?_⟩
      · exact c1.cons ⟨fun _ h => absurd h (by simp), fun _ _ => rfl⟩ hin.columns hperm (by simp)
      · refine ⟨_, by rw [e1], ?_⟩
        intro y px h; simp at h
      · intro _; rw [e1]; exact ⟨rfl, rfl, rfl⟩
    | r' :: rest, hperm, hnd =>
      dsimp only
      rw [hw]
      obtain ⟨s2, hs, hi2, en⟩ := seam_keeps hi1
      obtain ⟨l2, el2, sh2⟩ := seam_shows (tc := tc) (by rw [e1]; exact htc) hs
      show OpOut.Ends _ _ _ _ _ (afterPart (seam s1) _)
      rw [hs]
      have f2 : s2.fb = s1.fb := by rw [en.frame]; rfl
      have hsub : ∀ q ∈ r' :: rest, q ∈ rows := fun q hq =>
        hperm.mem_iff.mp (List.mem_cons_of_mem _ hq)
      have ih := writeRows_ends fuel (r' :: rest) s2 hi2
        (by rw [en.frame, e1]; exact hp) (by rw [en.frame, e1]; exact htc)
        ⟨hin.columns, fun q hq => hin.row q (hsub q hq), fun q hq => hin.pixels q (hsub q hq),
          (List.nodup_cons.mp hnd).2⟩ (by simp)
        (by have := hperm.length_eq; simp only [List.length_cons] at this ⊢; omega)
      refine ih.mono ?_ (fun _ _ => id) (fun _ => id) (fun _ => id) fun _ => id
      rintro v t ⟨hv, k⟩
      have c2 : RowsWritten tc.hRes x0 y0 n pixels (r' :: rest) s1 t :=
        ⟨k.cells.written, fun a ha => (k.cells.untouched a ha).trans (fbCell_congr f2 a)⟩
      have hnr : r ∉ r' :: rest := (List.nodup_cons.mp hnd).1
      -- a row is settled before this point or from it on
      have old : ∀ (y : Nat) (px : List Pixel), RowShown s1 tc.hRes y px →
          RowShown s tc.hRes y px ∨ RowShown t tc.hRes y px := by
        intro y px h
        by_cases hy : y = y0 + r
        · right
          refine h.of_eq (c2.row hin.columns fun q hq e => hnr ?_)
          have : r = q := by omega
          rw [this]; exact hq
        · left
          refine h.of_eq fun x hx => (c1.row hin.columns (fun q hq => ?_) x hx).symm
          rw [List.mem_singleton.mp hq]; exact hy
      refine ⟨hv, k.inv, c1.cons c2 hin.columns hperm hnr, ?_, ?_, ?_⟩
      · obtain ⟨order, hop, ha⟩ := k.order
        refine ⟨r :: order, (hop.cons r).trans hperm, ?_⟩
        obtain ⟨tr, et, ev⟩ := ha.events
        refine ⟨?_, .rowWrite (y0 + r) x0 (rowOf pixels n r) :: (l2 ++ tr), ?_, ?_⟩
        · have q := ha.frame
          rw [en.frame, e1] at q
          exact q
        · rw [et]
          show s2.trace ++ tr = _
          rw [el2, e1]; simp
        · have hl2 : l2.filter (fun e => !e.isLine) = [] := by
            obtain ⟨ls, hls, els⟩ := en.lines
            obtain rfl : l2 = ls := List.append_cancel_left (el2.symm.trans els)
            rw [List.filter_eq_nil_iff]; intro a ha; simp [hls a ha]
          rw [List.map_cons, ← ev, threadEvents, List.filter_cons, if_pos (by rfl),
            List.filter_append, hl2, List.nil_append]
          rfl
      · obtain ⟨tr, et, hl⟩ := k.lines
        refine ⟨.rowWrite (y0 + r) x0 (rowOf pixels n r) :: (l2 ++ tr), ?_, ?_⟩
        · rw [et, el2, e1]; simp
        · intro y px h
          rcases List.mem_cons.mp h with h | h
          · cases h
          · rcases List.mem_append.mp h with h | h
            · exact ⟨(sh2 y px h).1, old y px (sh2 y px h).2⟩
            · refine ⟨(hl y px h).1, ?_⟩
              rcases (hl y px h).2 with h' | h'
              · exact old y px (h'.of_eq fun _ _ => fbCell_congr f2.symm _)
              · exact .inr h'
      · intro hst
        have hst2 : s2.pState ≠ .streaming := by rw [en.frame, e1]; exact hst
        have h12 : s2 = s1 := by
          have := seam_idle (s := s1) (by rw [e1]; exact hst)
          rw [this] at hs; cases hs; rfl
        have := k.idle hst2
        rw [h12, e1] at this
        exact this

/-- The rectangle that passes the bounds test of R177. -/
theorem boundsError_none {w h : Nat} {x0 y0 x1 y1 : Int} {pixels : List Pixel} :
    boundsError w h x0 y0 x1 y1 pixels = none ↔
      (0 ≤ x0 ∧ x0 < x1 ∧ x1 ≤ w) ∧ (0 ≤ y0 ∧ y0 < y1 ∧ y1 ≤ h) ∧
        (pixels.length : Int) = (x1 - x0) * (y1 - y0) := by
  unfold boundsError
  by_cases a : 0 ≤ x0 ∧ x0 < x1 ∧ x1 ≤ w
  · by_cases b : 0 ≤ y0 ∧ y0 < y1 ∧ y1 ≤ h
    · by_cases c : (pixels.length : Int) = (x1 - x0) * (y1 - y0) <;> simp [a, b, c]
    · simp [a, b]
  · simp [a]

/-- A row of a full pixel list. -/
theorem rowOf_length {pixels : List Pixel} {n k r : Nat} (hl : pixels.length = n * k)
    (hr : r < k) : (rowOf pixels n r).length = n := by
  have : (r + 1) * n ≤ k * n := Nat.mul_le_mul_right n hr
  rw [Nat.add_mul, Nat.one_mul, Nat.mul_comm k] at this
  simp only [rowOf, List.length_take, List.length_drop, hl]
  omega

/-- R176, R177, R178: every end of `DRAW_RECT` on a configured interface. -/
theorem drawRectOp_ends {P : Params} {tc : TimingConfig} {s : State} (x0 y0 x1 y1 : Int)
    (pixels : List Pixel) (hi : ParallelInv P s) (hp : s.pState ≠ .unconfigured)
    (htc : s.tc = .val tc) : (drawRectOp x0 y0 x1 y1 pixels s).Ends
      (fun v t => v = .none ∧ boundsError tc.hRes tc.vRes x0 y0 x1 y1 pixels = none ∧
        CopiedIn P tc x0.toNat y0.toNat (x1.toNat - x0.toNat) pixels
          (List.range (y1.toNat - y0.toNat)) s t)
      (fun e t => (∃ info, e = .outOfBounds info) ∧ t = s)
      (fun _ => False) (fun _ => False) (fun _ => False) := by
  unfold drawRectOp
  rw [if_neg hp, htc]
  dsimp only [readX_val]
  cases hb : boundsError tc.hRes tc.vRes x0 y0 x1 y1 pixels with
  | some info => exact ⟨⟨_, rfl⟩, rfl⟩
  | none =>
    obtain ⟨⟨a1, a2, a3⟩, ⟨b1, b2, b3⟩, c⟩ := boundsError_none.mp hb
    obtain ⟨x0, rfl⟩ := Int.eq_ofNat_of_zero_le a1
    obtain ⟨x1, rfl⟩ := Int.eq_ofNat_of_zero_le (by omega : 0 ≤ x1)
    obtain ⟨y0, rfl⟩ := Int.eq_ofNat_of_zero_le b1
    obtain ⟨y1, rfl⟩ := Int.eq_ofNat_of_zero_le (by omega : 0 ≤ y1)
    simp only [Int.toNat_natCast]
    have hl : pixels.length = (x1 - x0) * (y1 - y0) := by
      have : ((x1 - x0 : Nat) : Int) = (x1 : Int) - x0 := by omega
      have h2 : ((y1 - y0 : Nat) : Int) = (y1 : Int) - y0 := by omega
      rw [← this, ← h2] at c
      exact_mod_cast c
    refine (writeRows_ends (y1 - y0) (List.range (y1 - y0)) s hi hp htc ⟨by omega, ?_, ?_, ?_⟩
      ?_ (by simp)).mono ?_ (fun _ _ => False.elim) (fun _ => id) (fun _ => id) fun _ => id
    · intro r hr; have := List.mem_range.mp hr; omega
    · intro r hr; exact rowOf_length hl (List.mem_range.mp hr)
    · exact List.nodup_range
    · intro h; have := congrArg List.length h; simp at this; omega
    · exact fun v t k => ⟨k.1, trivial, k.2⟩

end Sys2Proof.Machine
end

