-- ==== Sys2Proof/Laws/Transport.lean ====
section
/-! SUPPORT. Everything `OPEN`, `SEND` and `CLOSE` can do. -/

namespace Sys2Proof.Machine

/-- R121: every end of `OPEN`. -/
theorem openOp_ends (P : Params) (bus : BusId) (clk mode : Nat) (sel : PinId) (depth : Nat)
    (s : State) : (openOp P bus clk mode sel depth s).Ends
      (fun v t => v = .none ∧ s.busOwner = .free ∧ P.pinValid sel = true ∧
        t = { s with
          busOwner := .serial, tState := .opened, tBus := .val bus, tClockHz := .val clk,
          tMode := .val mode, tSelect := .val sel, tQdepth := .val depth, tOutstanding := 0,
          trace := s.trace ++ [.busClaim .serial] })
      (fun e t => (∃ info, e = .busUnavailable info) ∧ t = s) (fun _ => False)
      (fun _ => False) (fun _ => False) := by
  unfold openOp
  split
  · exact ⟨⟨_, rfl⟩, rfl⟩
  · next h1 =>
    split
    · exact ⟨⟨_, rfl⟩, rfl⟩
    · next h2 => exact ⟨rfl, not_not.mp h1, by simpa using h2, rfl⟩

/-- Reading an element changes no more than the draws. -/
theorem readX_snd {α : Type} [Inhabited α] (v : Xv α) (s : State) :
    (readX v s).2 = setDraws (readX v s).2.draws s := by cases v <;> rfl

/-- R125: what a completed frame does to the ghost. -/
theorem panelAfterFrame_eq (s : State) : panelAfterFrame s =
    { s with panel := if s.prgState = .running then s.panel else .undefined } := by
  unfold panelAfterFrame
  split
  · next h => rw [if_pos h]
  · next h => rw [if_neg h]

/-- R124: every end of `SEND`. -/
theorem sendOp_ends (P : Params) (u : Unit9) (s : State) : (sendOp P u s).Ends
      (fun v t => v = .none ∧ s.tState = .opened ∧
        t = { s with
          txsr := .val u, trace := s.trace ++ [.frame u], draws := t.draws,
          panel := if s.prgState = .running then s.panel else .undefined })
      (fun e t => s.tState = .opened ∧
        ((e = .transportError .queueFull ∧ t = { s with draws := t.draws }) ∨
         ∃ cause, cause ≠ .queueFull ∧ e = .transportError cause ∧
          t = { s with
            txsr := .val u, trace := s.trace ++ [.txFault u], panel := .undefined,
            draws := t.draws }))
      (fun t => P.txTimeout = none ∧ s.tState = .opened ∧
        (∀ d, s.tQdepth = .val d → s.tOutstanding < d) ∧
        t = { s with
          tOutstanding := s.tOutstanding + 1, txsr := .val u, draws := t.draws })
      (fun r => r = .sendOnClosedTransport ∧ s.tState = .closed) (fun _ => False) := by
  by_cases ho : s.tState = .opened
  · have hd : ∀ d, s.tQdepth = .val d → ¬ (readX s.tQdepth s).1 ≤ s.tOutstanding →
        s.tOutstanding < d := by
      intro d hq hd; rw [hq] at hd; simpa using hd
    rw [sendOp, if_neg (not_not.mpr ho)]
    dsimp only
    by_cases hf : (readX s.tQdepth s).1 ≤ s.tOutstanding
    · rw [if_pos hf]
      exact ⟨ho, .inl ⟨rfl, by rw [readX_snd]; rfl⟩⟩
    · rw [if_neg hf]
      have e : drawTx (submit u (readX s.tQdepth s).2) =
          ((readX s.tQdepth s).2.draws.nextTx.1,
            setDraws (readX s.tQdepth s).2.draws.nextTx.2 (submit u s)) := by
        rw [readX_snd]; rfl
      rw [e]
      generalize (readX s.tQdepth s).2.draws.nextTx = q
      obtain ⟨⟨hang, fault⟩, d'⟩ := q
      cases hang
      · cases fault
        · exact ⟨rfl, ho, by rw [panelAfterFrame_eq]; rfl⟩
        · exact ⟨ho, .inr ⟨_, by decide, rfl, rfl⟩⟩
      · simp only [transact, if_true]
        cases hP : P.txTimeout
        · exact ⟨rfl, ho, fun d hq => hd d hq hf, rfl⟩
        · exact ⟨ho, .inr ⟨_, by decide, rfl, rfl⟩⟩
  · rw [sendOp, if_pos ho]
    exact ⟨rfl, by cases hs : s.tState; rfl; exact absurd hs ho⟩

/-- R128: every end of `CLOSE`. -/
theorem closeOp_ends (s : State) : (closeOp s).Ends
      (fun v t => v = .none ∧ s.tState = .opened ∧
        t = { s with
          tState := .closed, busOwner := .free, trace := s.trace ++ [.busRelease] })
      (fun _ _ => False) (fun _ => False)
      (fun r => r = .closeOnClosedTransport ∧ s.tState = .closed) (fun _ => False) := by
  by_cases ho : s.tState = .opened
  · rw [closeOp, if_neg (not_not.mpr ho)]; exact ⟨rfl, ho, rfl⟩
  · rw [closeOp, if_pos ho]
    exact ⟨rfl, by cases hs : s.tState; rfl; exact absurd hs ho⟩

end Sys2Proof.Machine
end

