-- ==== Sys2Proof/Laws/Program.lean ====
section
/-! SUPPORT. Everything `RUN` can do. -/

namespace Sys2Proof.Machine

/-- R137: every end of the loop over the steps that are left, while the sequencer runs. -/
theorem runSteps_ends (P : Params) : ∀ (rest : List ProgramStep) (s : State),
    s.tState = .opened → s.prgState = .running → (runSteps P rest s).Ends
      (fun v t => v = .none ∧
        t = { s with
          txsr := t.txsr, draws := t.draws, prgPc := s.prgPc + rest.length,
          trace := s.trace ++ rest.map ProgramStep.event })
      (fun e t => ∃ k cause u, e = .programAborted (s.prgPc + k) cause ∧
        rest[k]? = some (.send u) ∧
        t = { s with
          txsr := t.txsr, draws := t.draws, prgPc := s.prgPc + k, prgState := .aborted,
          panel := .undefined,
          trace := s.trace ++ ((rest.take k).map ProgramStep.event ++
            if cause = .queueFull then [] else [.txFault u]) })
      (fun t => P.txTimeout = none ∧ ∃ k u, rest[k]? = some (.send u) ∧
        (∀ d, s.tQdepth = .val d → s.tOutstanding < d) ∧
        t = { s with
          tOutstanding := s.tOutstanding + 1, txsr := .val u, draws := t.draws,
          prgPc := s.prgPc + k,
          trace := s.trace ++ (rest.take k).map ProgramStep.event })
      (fun _ => False) (fun _ => False)
  | [], s, _, _ => ⟨rfl, by simp⟩
  | .send u :: rest, s, ho, hr => by
    have h := sendOp_ends P u s
    rw [runSteps]
    generalize sendOp P u s = o at h
    cases o with
    | ok v t =>
      obtain ⟨-, -, ht⟩ := h
      rw [if_pos hr] at ht
      have ih := runSteps_ends P rest (advanceProgram t) (by rw [ht]; exact ho)
        (by rw [ht]; exact hr)
      refine ih.mono ?_ ?_ ?_ (fun _ => id) (fun _ => id)
      · rintro v w ⟨hv, hw⟩
        refine ⟨hv, ?_⟩
        rw [ht] at hw
        rw [hw]
        simp [advanceProgram, ProgramStep.event, Nat.add_comm, Nat.add_left_comm]
      · rintro e w ⟨k, cause, u', he, hk, hw⟩
        refine ⟨k + 1, cause, u', ?_, by simpa using hk, ?_⟩
        · rw [he, ht]; simp [advanceProgram]; omega
        · rw [ht] at hw
          rw [hw]
          simp [advanceProgram, ProgramStep.event, Nat.add_comm, Nat.add_left_comm]
      · rintro w ⟨hP, k, u', hk, hd, hw⟩
        refine ⟨hP, k + 1, u', by simpa using hk, by rw [ht] at hd; exact hd, ?_⟩
        rw [ht] at hw
        rw [hw]
        simp [advanceProgram, ProgramStep.event, Nat.add_comm, Nat.add_left_comm]
    | err e t =>
      obtain ⟨-, ⟨rfl, ht⟩ | ⟨cause, hc, rfl, ht⟩⟩ := h
      · refine ⟨0, .queueFull, u, by rw [ht]; rfl, rfl, ?_⟩
        rw [ht]; simp [abortProgram]
      · refine ⟨0, cause, u, by rw [ht]; rfl, rfl, ?_⟩
        rw [ht]; simp [abortProgram, hc]
    | stuck t =>
      obtain ⟨hP, -, hd, ht⟩ := h
      exact ⟨hP, 0, u, rfl, hd, by rw [ht]; simp⟩
    | refuse r => exact absurd h.2 (by rw [ho]; decide)
    | fault f => exact h
  | .delay t0 :: rest, s, ho, hr => by
    have ih := runSteps_ends P rest (advanceProgram (emit (.wait t0) s)) ho hr
    rw [runSteps]
    refine ih.mono ?_ ?_ ?_ (fun _ => id) (fun _ => id)
    · rintro v w ⟨hv, hw⟩
      refine ⟨hv, ?_⟩
      rw [hw]
      simp [advanceProgram, emit, ProgramStep.event, Nat.add_comm, Nat.add_left_comm]
    · rintro e w ⟨k, cause, u', he, hk, hw⟩
      refine ⟨k + 1, cause, u', ?_, by simpa using hk, ?_⟩
      · rw [he]; simp [advanceProgram, emit]; omega
      · rw [hw]
        simp [advanceProgram, emit, ProgramStep.event, Nat.add_comm, Nat.add_left_comm]
    · rintro w ⟨hP, k, u', hk, hd, hw⟩
      refine ⟨hP, k + 1, u', by simpa using hk, hd, ?_⟩
      rw [hw]
      simp [advanceProgram, emit, ProgramStep.event, Nat.add_comm, Nat.add_left_comm]

/-- R137: every end of `RUN`. -/
theorem runOp_ends (P : Params) (s : State) : (runOp P s).Ends
      (fun v t => v = .none ∧ s.tState = .opened ∧
        t = { s with
          txsr := t.txsr, draws := t.draws, prgPc := programLen P, prgState := .done,
          panel := if s.panel = .reset then .programmed else .undefined,
          trace := s.trace ++ (programSteps P).map ProgramStep.event })
      (fun e t => s.tState = .opened ∧ ∃ k cause u, e = .programAborted k cause ∧
        (programSteps P)[k]? = some (.send u) ∧
        t = { s with
          txsr := t.txsr, draws := t.draws, prgPc := k, prgState := .aborted,
          panel := .undefined,
          trace := s.trace ++ (((programSteps P).take k).map ProgramStep.event ++
            if cause = .queueFull then [] else [.txFault u]) })
      (fun t => P.txTimeout = none ∧ s.tState = .opened ∧ ∃ k u, (programSteps P)[k]? = some (.send u) ∧
        (∀ d, s.tQdepth = .val d → s.tOutstanding < d) ∧
        t = { s with
          tOutstanding := s.tOutstanding + 1, txsr := .val u, draws := t.draws,
          prgPc := k, prgState := .running,
          panel := if s.panel = .reset then .programming else .undefined,
          trace := s.trace ++ ((programSteps P).take k).map ProgramStep.event })
      (fun r => r = .runOnClosedTransport ∧ s.tState = .closed) (fun _ => False) := by
  by_cases ho : s.tState = .opened
  case neg =>
    rw [runOp, if_pos ho]
    exact ⟨rfl, by cases hs : s.tState; rfl; exact absurd hs ho⟩
  case pos =>
    rw [runOp, if_neg (not_not.mpr ho)]
    have hp : panelAtRunStart (startProgram s) =
        { startProgram s with panel := if s.panel = .reset then .programming else .undefined } := by
      unfold panelAtRunStart
      split
      · next h => rw [if_pos (show s.panel = .reset from h)]
      · next h => rw [if_neg (show s.panel ≠ .reset from h)]
    generalize panelAtRunStart (startProgram s) = q at hp ⊢
    have hrun := runSteps_ends P (programSteps P) q (by rw [hp]; exact ho) (by rw [hp]; rfl)
    generalize runSteps P (programSteps P) q = o at hrun
    cases o with
    | ok v t =>
      obtain ⟨-, ht⟩ := hrun
      refine ⟨rfl, ho, ?_⟩
      rw [ht, hp]
      by_cases hs : s.panel = .reset <;>
        simp [panelAtRunEnd, endProgram, hs, programLen, startProgram]
    | err e t =>
      obtain ⟨k, cause, u, he, hk, ht⟩ := hrun
      refine ⟨ho, k, cause, u, by rw [he, hp]; simp [startProgram], hk, ?_⟩
      rw [ht, hp]; simp [startProgram]
    | stuck t =>
      obtain ⟨hP, k, u, hk, hd, ht⟩ := hrun
      refine ⟨hP, ho, k, u, hk, by rw [hp] at hd; exact hd, ?_⟩
      rw [ht, hp]; simp [startProgram]
    | refuse r => exact hrun.elim
    | fault f => exact hrun.elim

/-- R9: scripted draws that let `n` transactions complete. -/
theorem allComplete_replicate (n : Nat) (d : Draws)
    (h : d.tx = List.replicate n ⟨false, false⟩) : allComplete n d := by
  induction n generalizing d with
  | zero => trivial
  | succ n ih =>
    rw [List.replicate_succ] at h
    simp only [allComplete, Draws.nextTx, h]
    exact ⟨trivial, ih _ rfl⟩

end Sys2Proof.Machine
end

