-- ==== Sys2Proof/Laws/Orchestrator.lean ====
section
/-! SUPPORT. How the ends of its steps make the end of `BRING_UP`. -/

namespace Sys2Proof.Machine

/-- R190: a step's `ok` advances the sequencer and goes on; its error is latched and passed on;
every other end is the end of the whole. -/
theorem afterStep_ends {o : OpOut} {k : State → OpOut} {p q : Value → State → Prop}
    {e e' : Err → State → Prop} {w w' : State → Prop} {r r' : Refusal → Prop}
    {f f' : Fault → Prop} (h : o.Ends p e w r f)
    (hk : ∀ v s, p v s → (k (advanceBringUp s)).Ends q e' w' r' f')
    (he : ∀ x s, e x s → e' x (failBringUp x s)) (hw : ∀ s, w s → w' s)
    (hr : ∀ x, r x → r' x) (hf : ∀ x, f x → f' x) : (afterStep o k).Ends q e' w' r' f' := by
  cases o
  · exact hk _ _ h
  · exact he _ _ h
  · exact hr _ h
  · exact hw _ h
  · exact hf _ h

/-- The steps of a `BRING_UP` keep a property that each step, the sequencer's latches and each
seam keep. -/
theorem bringUpSteps_leaves {p w : State → Prop} {F : Prop}
    (hseam : ∀ s t, p s → seam s = .ok t → p t) (hfault : ∀ s f, p s → seam s = .error f → F)
    (hadv : ∀ s, p s → p (advanceBringUp s)) (hfail : ∀ e s, p s → p (failBringUp e s)) :
    ∀ (fs : List (State → OpOut)), (∀ f ∈ fs, ∀ s, p s → (f s).Leaves p w F) →
      ∀ s, p s → (bringUpSteps fs s).Leaves p w F
  | [], _, s, hs => hs
  | [f], hf, s, hs => by
    rw [bringUpSteps]
    exact afterStep_ends (hf f (by simp) s hs) (fun _ t ht => hadv t ht)
      (fun e t ht => hfail e t ht) (fun _ => id) (fun _ => id) fun _ => id
  | f :: g :: rest, hf, s, hs => by
    rw [bringUpSteps]
    exact afterStep_ends (hf f (by simp) s hs)
      (fun _ t ht => afterPart_ends
        (fun u hu => bringUpSteps_leaves hseam hfault hadv hfail (g :: rest)
          (fun q hq => hf q (List.mem_cons_of_mem _ hq)) u (hseam _ u (hadv t ht) hu))
        (fun y hy => hfault _ y (hadv t ht) hy))
      (fun e t ht => hfail e t ht) (fun _ => id) (fun _ => id) fun _ => id

end Sys2Proof.Machine
end

