-- ==== Sys2Proof/Laws/PerInstr.lean ====
section
/-! SUPPORT. Statements made instruction by instruction: the coded form of every instruction is
a row of the opcode table (30_encoding.md R91, R94). -/

namespace Sys2Proof.Laws.TableCode

/-- The coded form of an instruction: an operation code of the table in 8 bits, or a unit in 9. -/
def Statement (i : Instr) : Prop :=
  match encode i with
  | .hostOp op _ => op < 256 ∧ ∃ o, HostOp.ofCode op = some o
  | .frame u => u < 512

theorem encCmd (b : Byte) : Statement (.encCmd b) := ⟨by decide, .encCmd, rfl⟩

theorem encData (b : Byte) : Statement (.encData b) := ⟨by decide, .encData, rfl⟩

theorem decUnit (u : Unit9) : Statement (.decUnit u) := ⟨by decide, .decUnit, rfl⟩

theorem openBus (bus : BusId) (clockHz mode : Nat) (selectPin : PinId) (queueDepth : Nat) :
    Statement (.openBus bus clockHz mode selectPin queueDepth) := ⟨by decide, .openBus, rfl⟩

theorem send (u : Unit9) : Statement (.send u) := ⟨by decide, .send, rfl⟩

theorem close : Statement .close := ⟨by decide, .close, rfl⟩

theorem run : Statement .run := ⟨by decide, .run, rfl⟩

theorem delay (t : Ms) : Statement (.delay t) := ⟨by decide, .delay, rfl⟩

theorem configureOutput (pin : PinId) : Statement (.configureOutput pin) :=
  ⟨by decide, .configureOutput, rfl⟩

theorem setLevel (h : PinId) (level : Level) : Statement (.setLevel h level) :=
  ⟨by decide, .setLevel, rfl⟩

theorem timedResetSequence (h : PinId) : Statement (.timedResetSequence h) :=
  ⟨by decide, .timedResetSequence, rfl⟩

theorem pConfigure (tc : TimingConfig) (busWidth : Nat) (placement : Placement)
    (pinmap : List PinId) : Statement (.pConfigure tc busWidth placement pinmap) :=
  ⟨by decide, .pConfigure, rfl⟩

theorem pReset : Statement .pReset := ⟨by decide, .pReset, rfl⟩

theorem pInit : Statement .pInit := ⟨by decide, .pInit, rfl⟩

theorem drawRect (x0 y0 x1 y1 : Int) (pixels : List Pixel) :
    Statement (.drawRect x0 y0 x1 y1 pixels) := ⟨by decide, .drawRect, rfl⟩

theorem bringUp : Statement .bringUp := ⟨by decide, .bringUp, rfl⟩

theorem cmd (b : Byte) : Statement (.cmd b) := by
  have := b.isLt
  show b.toNat < 512
  omega

theorem data (b : Byte) : Statement (.data b) := by
  have := b.isLt
  show 256 + b.toNat < 512
  omega

end Sys2Proof.Laws.TableCode
end

