-- ==== Sys2Proof/Laws/Step.lean ====
section
/-! SUPPORT. The shape of a step: which operation an instruction runs, and what a step that leads
to a state has done. -/

namespace Sys2Proof.Machine

/-- The operation an instruction runs. -/
def opOf : Instr → State → OpOut
  | .encCmd b => .ok (.unit (unitOf false b))
  | .encData b => .ok (.unit (unitOf true b))
  | .decUnit u => .ok (.decoded (unitRole u) (unitByte u))
  | .openBus bus clk mode sel depth => openOp Config.params bus clk mode sel depth
  | .send u => sendOp Config.params u
  | .close => closeOp
  | .run => runOp Config.params
  | .delay t => delayOp t
  | .configureOutput pin => configureOutputOp Config.params pin
  | .setLevel h l => setLevelOp Config.params h l
  | .timedResetSequence h => timedResetOp Config.params h
  | .pConfigure tc width pl pins => pConfigureOp Config.params tc width pl pins
  | .pReset => pResetOp
  | .pInit => pInitOp
  | .drawRect x0 y0 x1 y1 px => drawRectOp x0 y0 x1 y1 px
  | .bringUp => bringUpOp Config.params
  | .cmd b => sendOp Config.params (unitOf false b)
  | .data b => sendOp Config.params (unitOf true b)

/-- An instruction's meaning is its operation and what a step makes of its end. -/
theorem exec_eq (i : Instr) (s : State) : exec i s = finish (opOf i s) := by cases i <;> rfl

/-- What a step that leads to a state has done: one pixel clock of the engine with the thread
idle, or a seam and the next instruction. -/
theorem step_cases {s t : State} (h : step s = .next t) :
    ((s.thread = .stuck ∨ s.program = []) ∧ pixelClock s = .ok t) ∨
    ∃ c rest i u, s.thread = .running ∧ s.program = c :: rest ∧ decode c = .ok i ∧
      seam { s with program := rest } = .ok u ∧ finish (opOf i u) = .next t := by
  have idle : ∀ {s t : State}, idleStep s = .next t → pixelClock s = .ok t := by
    intro s t h
    unfold idleStep at h
    split at h
    · next hp => cases h; exact hp
    · cases h
  unfold step at h
  split at h
  · next ht => exact .inl ⟨.inl ht, idle h⟩
  · next ht =>
    unfold fetch at h
    split at h
    · next hf =>
      split at hf
      · next hp => exact .inl ⟨.inr hp, idle h⟩
      · cases hf
    · next hf =>
      split at hf
      · cases hf
      · next _ rest hp =>
        cases hf
        split at h
        · cases h
        · next i hd =>
          unfold issue at h
          split at h
          · next u hu => exact .inr ⟨_, rest, i, u, ht, hp, hd, hu, by rw [← exec_eq]; exact h⟩
          · cases h

end Sys2Proof.Machine
end

