-- ==== Sys2Proof/Tests/Slice0.lean ====
section
/-! SUPPORT. Small tests of the definitions. Expected values come from spec/95_test_vectors.md
(the vector is named in each test's comment) or, for the codes, from the tables of
30_encoding.md. The second half shows states and operands that meet the hypotheses of the
statements. -/

open Sys2Proof Sys2Proof.Machine

namespace Sys2Proof.Tests

/-! ## Helpers -/

/-- Parameters for the tests: those of program P2. -/
def P : Params := Config.exampleParams

/-- The reset state with scripted choices. -/
def scripted (tx : List TxDraw) (clocks picks : List Nat) : State :=
  { State.reset with draws := ⟨0, tx, clocks, picks⟩ }

/-- The reset state with an open transport of the given queue depth. -/
def openWith (depth : Nat) (tx : List TxDraw) : State :=
  { scripted tx [] [] with
    busOwner := .serial, tState := .opened, tQdepth := .val depth }

/-- A transaction that completes, one that draws a fault, one that hangs. -/
def good : TxDraw := ⟨false, false⟩
def bad : TxDraw := ⟨false, true⟩
def hung : TxDraw := ⟨true, true⟩

/-- Whether an operation ended `ok` with a value, in a state with a property. -/
def isOk (o : OpOut) (v : Value) (p : State → Bool) : Bool :=
  match o with
  | .ok w s => w == v && p s
  | _ => false

/-- Whether an operation ended with an error, in a state with a property. -/
def isErr (o : OpOut) (e : Err) (p : State → Bool) : Bool :=
  match o with
  | .err x s => x == e && p s
  | _ => false

/-- The toy timing of program P6. -/
def toy : TimingConfig := ⟨1000000, 4, 2, 1, 1, 1, 1, 1, 1⟩

/-- A streaming interface with the toy timing; `cells` is the frame buffer. -/
def streaming (h v : Nat) (cells : List (Nat × Pixel)) (clocks picks : List Nat) : State :=
  { scripted [] clocks picks with
    busOwner := .parallel, role := .hardwareSyncSignal, pState := .streaming, tc := .val toy,
    pWidth := .val 16, pPlacement := .val .externalMemory, pPinmap := .val P.dataPinMap,
    pAlign := .val 64, fb := some ⟨8, cells⟩, hcnt := .val h, vcnt := .val v }

/-- Eight cells of 1. -/
def ones : List (Nat × Pixel) := (List.range 8).map fun a => (a, 1)

/-! ## Well-formedness -/

/-- R95, R97: a pin map has 16 entries. -/
theorem test_pinmap_of_16_is_well_formed :
    (Instr.pConfigure toy 16 .externalMemory P.dataPinMap).wellFormed = true := by decide

theorem test_pinmap_of_15_is_ill_formed :
    (Instr.pConfigure toy 16 .externalMemory (P.dataPinMap.drop 1)).wellFormed = false := by
  decide

/-- R97: the operation refuses it too. -/
theorem test_pinmap_of_15_is_refused :
    pConfigureOp P toy 16 .externalMemory (P.dataPinMap.drop 1) State.reset =
      .refuse .operandOutsideType := by decide

/-! ## Decoding, one written-out word for each row (R91, R94, R95) -/

theorem test_decode_enc_cmd :
    decode (.hostOp 0b00000001 [.num 0x2A]) = .ok (.encCmd 0x2A) := rfl

theorem test_decode_enc_data :
    decode (.hostOp 0b00000010 [.num 0x2A]) = .ok (.encData 0x2A) := rfl

theorem test_decode_dec_unit :
    decode (.hostOp 0b00000011 [.num 0x1FF]) = .ok (.decUnit 0x1FF) := rfl

theorem test_decode_open :
    decode (.hostOp 0b00010000 [.num 8, .num 10000000, .num 1, .num 3, .num 7]) =
      .ok (.openBus 8 10000000 1 3 7) := rfl

theorem test_decode_send :
    decode (.hostOp 0b00010001 [.num 0x148]) = .ok (.send 0x148) := rfl

theorem test_decode_close : decode (.hostOp 0b00010010 []) = .ok .close := rfl

theorem test_decode_run : decode (.hostOp 0b00100000 []) = .ok .run := rfl

theorem test_decode_delay : decode (.hostOp 0b00100001 [.num 120]) = .ok (.delay 120) := rfl

theorem test_decode_configure_output :
    decode (.hostOp 0b00110000 [.num 5]) = .ok (.configureOutput 5) := rfl

theorem test_decode_set_level :
    decode (.hostOp 0b00110001 [.num 5, .num 1]) = .ok (.setLevel 5 true) := rfl

theorem test_decode_timed_reset_sequence :
    decode (.hostOp 0b00110010 [.num 5]) = .ok (.timedResetSequence 5) := rfl

theorem test_decode_p_configure :
    decode (.hostOp 0b01000000
      [.nums [1, 2, 3, 4, 5, 6, 7, 8, 9], .num 16, .num 0,
       .nums [20, 21, 22, 23, 24, 25, 26, 27, 28, 29, 30, 31, 32, 33, 34, 35]]) =
      .ok (.pConfigure ⟨1, 2, 3, 4, 5, 6, 7, 8, 9⟩ 16 .externalMemory
        [20, 21, 22, 23, 24, 25, 26, 27, 28, 29, 30, 31, 32, 33, 34, 35]) := rfl

theorem test_decode_p_reset : decode (.hostOp 0b01000001 []) = .ok .pReset := rfl

theorem test_decode_p_init : decode (.hostOp 0b01000010 []) = .ok .pInit := rfl

theorem test_decode_draw_rect :
    decode (.hostOp 0b01000011 [.num (-1), .num 2, .num 3, .num 4, .nums [0xF800, 1]]) =
      .ok (.drawRect (-1) 2 3 4 [0xF800, 1]) := rfl

theorem test_decode_bring_up : decode (.hostOp 0b01010000 []) = .ok .bringUp := rfl

/-- R91: `0bbbbbbbb` is `CMD`. -/
theorem test_decode_cmd : decode (.frame 0b000110110) = .ok (.cmd 0x36) := rfl

/-- R91: `1bbbbbbbb` is `DATA`. -/
theorem test_decode_data : decode (.frame 0b101001000) = .ok (.data 0x48) := rfl

/-- R101 and V1.14. -/
theorem test_decode_refusals :
    decode (.hostOp 0x04 []) = .error .reservedCode ∧
    decode (.hostOp 0x110 [.num 1]) = .error .reservedCode ∧
    decode (.hostOp 0x01 [.num 256]) = .error .operandRange ∧
    decode (.hostOp 0x02 [.num (-1)]) = .error .operandRange ∧
    decode (.hostOp 0x03 [.num 512]) = .error .operandRange ∧
    decode (.hostOp 0x12 [.num 0]) = .error .operandCount ∧
    decode (.frame 512) = .error .unitRange := ⟨rfl, rfl, rfl, rfl, rfl, rfl, rfl⟩

/-- R102: a line begins with the mnemonic. -/
theorem test_assemble :
    assemble "DELAY" [.num 120] = .ok (.delay 120) ∧
    assemble "NOP" [] = .error .unknownMnemonic := ⟨rfl, rfl⟩

/-- R103: `WRITE_REG 0x36, [0x48]` (program P1). -/
theorem test_write_reg :
    (Pseudo.writeReg 0x36 [0x48]).expand P = [.send 0x036, .send 0x148] := by decide

/-! ## Codec (V1) -/

theorem test_enc_cmd : unitOf false 0x80 = 0x080 ∧ unitOf false 0xFF = 0x0FF := by decide

theorem test_enc_data : unitOf true 0x80 = 0x180 ∧ unitOf true 0x2A = 0x12A := by decide

theorem test_dec_unit :
    exec (.decUnit 0x1FF) State.reset =
      .next { State.reset with result := some (.ok (.decoded true 0xFF)) } := rfl

/-- V2.2 and V2.4. -/
theorem test_wire_bits :
    wireBits 0x111 = [true, false, false, false, true, false, false, false, true] ∧
    wireBits 0x036 = [false, false, false, true, true, false, true, true, false] := by decide

/-! ## Transport (V3) -/

/-- V3.1. -/
theorem test_open :
    isOk (openOp P 8 10000000 0 3 7 State.reset) .none (fun s =>
      s.tClockHz == .val 10000000 && s.tSelect == .val 3 && s.tQdepth == .val 7 &&
        s.trace == [.busClaim .serial]) = true := by decide

/-- V3.4: the bus is tested before the pin. -/
theorem test_open_order :
    openOp P 8 10000000 0 99 7 (openWith 7 []) =
      .err (.busUnavailable .alreadyInUse) (openWith 7 []) := rfl

/-- V3.7. -/
theorem test_send :
    isOk (sendOp P 0x12A (openWith 7 [good])) .none (fun s =>
      s.txsr == .val 0x12A && s.tOutstanding == 0 && s.panel == .undefined &&
        s.trace == [.frame 0x12A]) = true := by decide

/-- V3.10. -/
theorem test_send_fault :
    isErr (sendOp P 0x0B0 (openWith 7 [bad])) (.transportError .deviceFault) (fun s =>
      s.txsr == .val 0x0B0 && s.tOutstanding == 0 && s.trace == [.txFault 0x0B0]) = true := by
  decide

/-- R126: a `CMD` and a `DATA` frame, as the instructions of their rows. -/
theorem test_cmd_and_data_need_an_open_transport :
    exec (.cmd 0x36) State.reset = .refused .sendOnClosedTransport ∧
    exec (.data 0x48) State.reset = .refused .sendOnClosedTransport := ⟨rfl, rfl⟩

/-- V3.14. -/
theorem test_close :
    isOk (closeOp (openWith 7 [])) .none (fun s =>
      s.tState == .closed && s.busOwner == .free && s.tQdepth == .val 7) = true := by decide

/-! ## Program and delay (V4) -/

/-- V4.5. -/
theorem test_run :
    isOk (runOp P { openWith 7 (List.replicate 8 good) with panel := .reset }) .none (fun s =>
      s.trace == [.frame 0x0FF, .frame 0x177, .frame 0x101, .frame 0x03A, .frame 0x155,
        .frame 0x021, .frame 0x011, .wait 120, .frame 0x029, .wait 20] &&
        s.prgPc == 10 && s.panel == .programmed) = true := by decide

/-- V4.11. -/
theorem test_run_abort :
    isErr (runOp { P with regProgram := [] } (openWith 7 [good, bad]))
      (.programAborted 2 .deviceFault) (fun s =>
      s.trace == [.frame 0x011, .wait 120, .txFault 0x029] && s.prgPc == 2 &&
        s.prgState == .aborted) = true := by decide

/-- V4.12. -/
theorem test_delay :
    exec (.delay 120) State.reset =
      .next { State.reset with trace := [.wait 120], result := some (.ok .none) } := rfl

/-! ## Pin multiplexer (V5) -/

/-- V5.2. -/
theorem test_configure_output :
    isOk (configureOutputOp P P.pinShared State.reset) (.handle P.pinShared) (fun s =>
      s.role == .digitalResetOutput && s.rstLevel == .x) = true := by decide

/-- V5.5. -/
theorem test_configure_output_after_hand_off :
    isErr (configureOutputOp P P.pinShared (streaming 0 0 [] [] []))
      (.configError .pinOwnedByTimingGenerator) (fun s => s.trace == []) = true := by decide

/-- V5.7. -/
theorem test_set_level :
    isOk (setLevelOp P P.pinShared true
      { State.reset with role := .digitalResetOutput, rstLevel := .val true, panel := .reset })
      .none (fun s => s.panel == .unknown && s.trace == [.level P.pinShared true]) = true := by
  decide

/-- V5.12. -/
theorem test_timed_reset_sequence :
    isOk (timedResetOp P P.pinBl { State.reset with blCfg := true, panel := .programmed }) .none
      (fun s => s.blLevel == .val true && s.panel == .programmed && s.trace ==
        [.level P.pinBl true, .wait 10, .level P.pinBl false, .wait 50, .level P.pinBl true,
         .wait 100]) = true := by decide

/-! ## Parallel interface (V6, V7, V9) -/

/-- V6.2. -/
theorem test_p_configure :
    isOk (pConfigureOp P Config.timing 16 .externalMemory P.dataPinMap State.reset) .none
      (fun s => s.pState == .configured && s.fb == some ⟨230400, []⟩ && s.trace ==
        [.busClaim .parallel, .role P.pinShared .hardwareSyncSignal, .parConfigured]) = true := by
  decide

/-- V6.13. -/
theorem test_p_configure_order :
    pConfigureOp P Config.timing 8 .externalMemory (List.replicate 16 20) State.reset =
      .err (.configError .badWidth) State.reset := rfl

/-- V6.15. -/
theorem test_p_reset :
    isOk (pResetOp { State.reset with pState := .configured }) .none (fun s =>
      s.hcnt == .val 0 && s.vcnt == .val 0 && s.pState == .resetDone) = true := by decide

theorem test_p_init :
    isOk (pInitOp { State.reset with pState := .resetDone }) .none (fun s =>
      s.pState == .streaming && s.trace == [.streamStart]) = true := by decide

/-- Program P6: a torn frame. Row 1 is written first, 14 and 7 clocks later rows are fetched. -/
theorem test_draw_rect_torn_frame :
    isOk (drawRectOp 0 0 4 2 (List.replicate 8 2) (streaming 0 0 ones [22] [1])) .none (fun s =>
      s.trace == [.rowWrite 1 0 [2, 2, 2, 2], .line 0 [1, 1, 1, 1], .line 1 [2, 2, 2, 2],
        .rowWrite 0 0 [2, 2, 2, 2]]) = true := by decide

/-- Scenario S7 (V7): a rectangle one column too wide. -/
theorem test_draw_rect_out_of_bounds :
    drawRectOp 0 0 5 1 (List.replicate 5 2) (streaming 0 0 ones [] []) =
      .err (.outOfBounds .badRect) (streaming 0 0 ones [] []) := rfl

/-- V9.14 on the toy timing: the last clock of a frame. -/
theorem test_pixel_clock_wraps :
    pixelClock (streaming 6 4 ones [] []) = .ok (streaming 0 0 ones [] []) := rfl

/-- Program P6: on the bus at `HCNT = 2` of an active line, line 1 carries bit 1 of the pixel. -/
theorem test_bus_pixel :
    dataLine { streaming 2 2 ones [] [] with linebuf := .val [2, 2, 2, 2] } 1 = .level true ∧
    dataLine { streaming 2 2 ones [] [] with linebuf := .val [2, 2, 2, 2] } 0 = .level false ∧
    dataLine { streaming 6 2 ones [] [] with linebuf := .val [2, 2, 2, 2] } 1 = .x := by decide

/-! ## Master sequencer (V10) -/

/-- Program P2. -/
theorem test_bring_up :
    isOk (bringUpOp P (scripted (List.replicate 8 good) [0] [])) .none (fun s =>
      s.buStep == 11 && s.buState == .ready && s.prgPc == 10 && s.panel == .programmed &&
        elapsedWait s.trace == 300 && s.trace.length == 26) = true := by decide

/-- Program P4. -/
theorem test_bring_up_abort :
    isErr (bringUpOp { P with regProgram := [⟨0xB0, [0x01, 0x02]⟩] }
        (scripted [good, good, bad] [] []))
      (.programAborted 2 .deviceFault) (fun s =>
      s.buStep == 5 && s.buErr == some (.programAborted 2 .deviceFault) &&
        s.blLevel == .val false && framesOf s.trace == [0x0B0, 0x101]) = true := by decide

/-! ## The step -/

/-- An operation issued from reset. -/
theorem test_step :
    step (State.reset.withFetchWord 8 0x21) =
      .next { State.reset with trace := [.wait 0], result := some (.ok .none) } := rfl

/-- R101. -/
theorem test_step_refuses_a_reserved_code :
    step (State.reset.withFetchWord 8 0x51) = .refused (.undecodable .reservedCode) := rfl

/-- The canonical form of a frame buffer: after a write, and refused where indices fall. -/
theorem test_memory_wf :
    Memory.wf ⟨8, ones⟩ = true ∧ Memory.wf ⟨8, [(1, 0), (0, 0)]⟩ = false ∧
    Memory.wf ⟨8, [(8, 0)]⟩ = false := by decide

/-! ## Witnesses: states and operands that meet the hypotheses of the statements

Each theorem is named after its statement. A statement over all parameters has its witness with
the parameters of the tests or a variant of them; one over the hardware's own parameters uses
only their constraints (D27). -/

/-- The constraints of the hardware's own parameters. -/
theorem own : Config.params.Constraints := Config.params_constraints

/-- The tests' parameters keep the pins of R150 apart. -/
theorem pins_distinct : P.PinsDistinct := Config.exampleParams_constraints.pinsDistinct

theorem witness_DecodeOfEncode :
    (Instr.pConfigure toy 16 .externalMemory P.dataPinMap).wellFormed = true := by decide

theorem witness_EncodeOfDecode : decode (.hostOp 0x31 [.num 2, .num 1]) = .ok (.setLevel 2 true) :=
  rfl

/-- A code at each end of each reserved range. -/
theorem witness_ReservedCodesRefused :
    (∀ op ∈ [0x00, 0x04, 0x0F, 0x13, 0x1F, 0x22, 0x2F, 0x33, 0x3F, 0x44, 0x4F, 0x51, 0xFF],
      op = 0x00 ∨ (0x04 ≤ op ∧ op ≤ 0x0F) ∨ (0x13 ≤ op ∧ op ≤ 0x1F) ∨ (0x22 ≤ op ∧ op ≤ 0x2F) ∨
      (0x33 ≤ op ∧ op ≤ 0x3F) ∨ (0x44 ≤ op ∧ op ≤ 0x4F) ∨ (0x51 ≤ op ∧ op ≤ 0xFF)) ∧
    (loadNext (.hostOp 0x13 []) State.reset).thread = .running ∧
    (loadNext (.hostOp 0x13 []) State.reset).program = [.hostOp 0x13 []] := by decide

/-- A value just outside each range on each side; a bad member behind good ones; a negative
number as the last operand. -/
theorem witness_OutOfRangeOperandsRefused :
    ((-1 : Int) < 0 ∨ (256 : Int) ≤ -1) ∧ ((256 : Int) < 0 ∨ (256 : Int) ≤ 256) ∧
    ((512 : Int) < 0 ∨ (512 : Int) ≤ 512) ∧
    ((2 : Int) < 0 ∨ (2 : Int) < 0 ∨ (2 : Int) ≤ 2) ∧
    (∃ n ∈ [(0 : Int), 65535, 65536], n < 0 ∨ 65536 ≤ n) ∧
    ((0 : Int) < 0 ∨ (0 : Int) < 0 ∨ (0 : Int) < 0 ∨ (0 : Int) < 0 ∨ (-1 : Int) < 0) ∧
    (List.replicate 9 (0 : Int)).length = 9 ∧ (List.replicate 15 (0 : Int) ++ [-1]).length = 16 ∧
    (∃ n ∈ List.replicate 9 (0 : Int) ++ 16 :: 0 :: (List.replicate 15 0 ++ [-1]), n < 0) ∧
    512 ≤ 512 := by decide

/-- The interface's invariant on the toy timing. -/
theorem streaming_inv {h v : Nat} {cells : List (Nat × Pixel)} {clocks picks : List Nat}
    (hc : cellsWf 8 0 cells = true) (hh : h < 7) (hv : v < 5) :
    ParallelInv P (streaming h v cells clocks picks) where
  absent     := by simp [streaming]
  configured := fun _ => ⟨toy, ⟨8, cells⟩, {
    timing    := rfl
    width     := rfl
    align     := rfl
    pinmap    := ⟨P.dataPinMap, rfl, by decide, by decide⟩
    placement := ⟨.externalMemory, rfl, by decide⟩
    inRange   := rfl
    clock     := by decide
    buffer    := rfl
    size      := rfl
    canonical := hc
    line      := by simp [streaming, scripted, State.reset] }⟩
  unknown    := by simp [streaming]
  zeroed     := by simp [streaming]
  counting   := fun _ => ⟨toy, h, v, rfl, rfl, rfl, fun _ => hh, fun _ => hv⟩

/-- A timing without sync pulse and back porch in a line, at the first clock of active line 1; the
line buffer still holds line 0. -/
def noPorch : State :=
  { streaming 0 3 ones [] [] with
    tc := .val { toy with hsyncPw := 0, hbp := 0 }, linebuf := .val [2, 2, 2, 2] }

theorem noPorch_inv : ParallelInv P noPorch where
  absent     := by simp [noPorch, streaming]
  configured := fun _ => ⟨{ toy with hsyncPw := 0, hbp := 0 }, ⟨8, ones⟩, {
    timing    := rfl
    width     := rfl
    align     := rfl
    pinmap    := ⟨P.dataPinMap, rfl, by decide, by decide⟩
    placement := ⟨.externalMemory, rfl, by decide⟩
    inRange   := rfl
    clock     := by decide
    buffer    := rfl
    size      := rfl
    canonical := by decide
    line      := by intro px h; cases h; rfl }⟩
  unknown    := by simp [noPorch, streaming]
  zeroed     := by simp [noPorch, streaming]
  counting   := fun _ => ⟨_, 0, 3, rfl, rfl, rfl, fun _ => by decide, fun _ => by decide⟩

/-- R183, R184: where the first active pixel is at the clock of the fetch, the bus shows the line
that is fetched. -/
theorem test_bus_pixel_at_the_clock_of_a_fetch :
    dataLine noPorch 0 = .level true ∧ dataLine noPorch 1 = .level false := by decide

/-- An operation to issue, without and with streaming. -/
theorem witness_StepRunsDecodedInstruction :
    (loadNext (.hostOp 0x12 []) State.reset).thread = .running ∧
    (loadNext (.hostOp 0x12 []) State.reset).program = [.hostOp 0x12 []] ∧
    decode (.hostOp 0x12 []) = .ok .close ∧
    (loadNext (.hostOp 0x12 []) State.reset).pState ≠ .streaming ∧
    ParallelInv P (loadNext (.hostOp 0x12 []) (streaming 0 0 ones [3] [])) :=
  ⟨rfl, rfl, rfl, by decide, (streaming_inv (h := 0) (v := 0) (cells := ones) (clocks := [3])
    (picks := []) (by decide) (by decide) (by decide)).of_eq rfl rfl rfl rfl rfl rfl rfl rfl rfl
    rfl⟩

theorem witness_TableWordRunsNext : decodeTableWord 8 0x12 = some .close := rfl

theorem witness_OpenFollowsRule :
    (openWith 7 []).busOwner ≠ .free ∧
    (State.reset.busOwner = .free ∧ P.pinValid 99 = false) ∧
    (State.reset.busOwner = .free ∧ Config.params.pinValid Config.params.pinSelect = true) :=
  ⟨by decide, ⟨rfl, rfl⟩, rfl, own.pinsValid _ (by simp)⟩

theorem witness_SendCompletes :
    (openWith 7 [good]).tState = .opened ∧ (openWith 7 [good]).tQdepth = .val 7 ∧
    (openWith 7 [good]).tOutstanding < 7 ∧
    (openWith 7 [good]).draws.nextTx.1 = ⟨false, false⟩ := by decide

theorem witness_SendFailures :
    ((openWith 0 []).tState = .opened ∧ (openWith 0 []).tQdepth = .val 0 ∧
      0 ≤ (openWith 0 []).tOutstanding) ∧
    ((openWith 1 [hung]).tState = .opened ∧ (openWith 1 [hung]).tQdepth = .val 1 ∧
      (openWith 1 [hung]).tOutstanding < 1 ∧ (openWith 1 [hung]).draws.nextTx.1.hang = true ∧
      ({ P with txTimeout := some 100 } : Params).txTimeout ≠ none) ∧
    ((openWith 1 [bad]).tState = .opened ∧ (openWith 1 [bad]).tQdepth = .val 1 ∧
      (openWith 1 [bad]).tOutstanding < 1 ∧ (openWith 1 [bad]).draws.nextTx.1.hang = false ∧
      (openWith 1 [bad]).draws.nextTx.1.fault = true) := by decide

/-- A `SEND` that hangs, a `RUN` and a `BRING_UP` whose third transaction hangs, and what such a
`BRING_UP` (V10.7) leaves. -/
theorem witness_HungTransactionIsStuck :
    ((openWith 1 [hung]).tState = .opened ∧ (openWith 1 [hung]).tQdepth = .val 1 ∧
      (openWith 1 [hung]).tOutstanding < 1 ∧ (openWith 1 [hung]).draws.nextTx.1.hang = true ∧
      P.txTimeout = none) ∧
    ((openWith 7 [good, good, hung]).tState = .opened ∧
      (openWith 7 [good, good, hung]).tQdepth = .val 7 ∧
      (openWith 7 [good, good, hung]).tOutstanding < 7 ∧ 2 < programFrames P ∧
      allComplete 2 (openWith 7 [good, good, hung]).draws ∧
      (drawsAfter 2 (openWith 7 [good, good, hung]).draws).nextTx.1.hang = true) ∧
    (P.PinsDistinct ∧ P.pinValid P.pinSelect = true ∧
      (scripted [good, good, hung] [] []).buState = .idle ∧
      (scripted [good, good, hung] [] []).busOwner = .free ∧
      (scripted [good, good, hung] [] []).pState = .unconfigured ∧
      (scripted [good, good, hung] [] []).role ≠ .hardwareSyncSignal ∧
      allComplete 2 (scripted [good, good, hung] [] []).draws ∧
      (drawsAfter 2 (scripted [good, good, hung] [] []).draws).nextTx.1.hang = true) ∧
    ((scripted [hung] [] []).thread = .running ∧
      ∃ t, finish (bringUpOp P (scripted [hung] [] [])) = .next t ∧ t.thread = .stuck) :=
  ⟨by decide, ⟨rfl, rfl, by decide, by decide, ⟨rfl, rfl, trivial⟩, rfl⟩,
    ⟨pins_distinct, rfl, rfl, rfl, rfl, by decide, ⟨rfl, rfl, trivial⟩, rfl⟩, rfl, _, rfl, rfl⟩

theorem witness_CloseFollowsRule :
    (openWith 7 []).tState = .opened ∧ State.reset.tState = .closed := by decide

theorem witness_WireBitOrder :
    (0x111 : Unit9).getLsbD 8 = true ∧ (0x011 : Unit9).getLsbD 8 = false ∧ 0 < 9 ∧ 8 < 9 := by
  decide

theorem witness_RunSendsWholeProgram :
    let s := openWith 7 (List.replicate (programFrames Config.params) good)
    s.tState = .opened ∧ s.tQdepth = .val 7 ∧ s.tOutstanding < 7 ∧
      allComplete (programFrames Config.params) s.draws :=
  ⟨rfl, rfl, show 0 < 7 by decide, allComplete_replicate _ _ rfl⟩

/-- A device fault in the third transaction (V4.7), and a queue of depth 0 (V4.8). -/
theorem witness_RunAbortTrace :
    (∃ t, finish (runOp P (openWith 7 [good, good, bad])) = .next t ∧ t.thread = .running ∧
      t.result = some (.err (.programAborted 2 .deviceFault))) ∧
    (∃ t, finish (runOp P (openWith 0 [])) = .next t ∧ t.thread = .running ∧
      t.result = some (.err (.programAborted 0 .queueFull))) :=
  ⟨⟨_, rfl, rfl, rfl⟩, ⟨_, rfl, rfl, rfl⟩⟩

theorem witness_RunRaisesOnlyProgramAborted :
    ∃ t, finish (runOp P (openWith 0 [])) = .next t ∧ t.thread = .running :=
  ⟨_, rfl, rfl⟩

theorem witness_CodecLaws :
    unitRole 0x0FF = false ∧ unitRole 0x100 = true ∧ unitOf true 0xFF = unitOf true 255 := by
  decide

/-- After a reset of the panel, without one, and where the queue has no room. -/
theorem witness_RunTraceAndReplay :
    (∃ t, finish (runOp P { openWith 7 (List.replicate 8 good) with panel := .reset }) =
      .next t ∧ t.thread = .running ∧ t.result = some (.ok .none)) ∧
    (∃ t, finish (runOp P (openWith 7 (List.replicate 8 good))) = .next t ∧
      t.thread = .running ∧ t.result = some (.ok .none)) ∧
    (openWith 7 (List.replicate 8 good)).panel ≠ .reset ∧
    (∃ t, finish (runOp P (openWith 0 [])) = .next t ∧ t.thread = .running ∧
      t.result ≠ some (.ok .none)) :=
  ⟨⟨_, rfl, rfl, rfl⟩, ⟨_, rfl, rfl, rfl⟩, by decide, ⟨_, rfl, rfl, by decide⟩⟩

/-- A pin outside the block's two. -/
theorem other_pin : Config.params.pinSelect ≠ Config.params.pinShared ∧
    Config.params.pinSelect ≠ Config.params.pinBl :=
  own.pinsDistinct.2 _ (by simp)

theorem witness_ConfigureOutputFollowsRule :
    State.reset.role = .unassigned ∧
    ({ State.reset with role := .digitalResetOutput } : State).role = .digitalResetOutput ∧
    (streaming 0 0 [] [] []).role = .hardwareSyncSignal ∧
    Config.params.pinSelect ≠ Config.params.pinShared ∧
    Config.params.pinSelect ≠ Config.params.pinBl :=
  ⟨rfl, rfl, rfl, other_pin⟩

theorem witness_SetLevelFollowsRule :
    ({ State.reset with role := .digitalResetOutput } : State).role = .digitalResetOutput ∧
    (streaming 0 0 [] [] []).role = .hardwareSyncSignal ∧ State.reset.role = .unassigned ∧
    ({ State.reset with blCfg := true } : State).blCfg = true ∧ State.reset.blCfg = false ∧
    Config.params.pinSelect ≠ Config.params.pinShared ∧
    Config.params.pinSelect ≠ Config.params.pinBl :=
  ⟨rfl, rfl, rfl, rfl, rfl, other_pin⟩

/-- The two completing cases, the error and the refusals while not streaming and, for the error
and the backlight's refusal, while streaming. -/
theorem witness_ResetSequenceFollowsRule :
    (({ State.reset with role := .digitalResetOutput } : State).pState ≠ .streaming ∧
      ({ State.reset with role := .digitalResetOutput } : State).role = .digitalResetOutput) ∧
    (({ State.reset with blCfg := true } : State).pState ≠ .streaming ∧
      ({ State.reset with blCfg := true } : State).blCfg = true) ∧
    (streaming 0 0 [] [] []).role = .hardwareSyncSignal ∧
    (streaming 0 0 [] [] []).pState = .streaming ∧ (streaming 0 0 [] [] []).blCfg = false ∧
    State.reset.role = .unassigned ∧ State.reset.blCfg = false ∧
    Config.params.pinSelect ≠ Config.params.pinShared ∧
    Config.params.pinSelect ≠ Config.params.pinBl :=
  ⟨by decide, by decide, rfl, rfl, rfl, rfl, rfl, other_pin⟩

theorem witness_ResetSequenceWhileStreaming :
    ParallelInv P { streaming 3 2 ones [1, 9, 0, 4, 2] [] with blCfg := true } ∧
    ({ streaming 3 2 ones [1, 9, 0, 4, 2] [] with blCfg := true } : State).pState = .streaming ∧
    ({ streaming 3 2 ones [1, 9, 0, 4, 2] [] with blCfg := true } : State).blCfg = true :=
  ⟨(streaming_inv (h := 3) (v := 2) (cells := ones) (clocks := [1, 9, 0, 4, 2]) (picks := [])
    (by decide) (by decide) (by decide)).of_eq rfl rfl rfl rfl rfl rfl rfl rfl rfl rfl, rfl, rfl⟩

theorem witness_LineDrive :
    (let s : State := { State.reset with role := .digitalResetOutput, rstLevel := .val true };
      s.role = .digitalResetOutput ∧ s.rstLevel = .val true) ∧
    (let s : State := { State.reset with role := .digitalResetOutput };
      s.role = .digitalResetOutput ∧ s.rstLevel = .x) ∧
    State.reset.role = .unassigned ∧
    (let s : State := { State.reset with role := .hardwareSyncSignal };
      s.role = .hardwareSyncSignal ∧ s.pState ≠ .streaming) ∧
    (let s : State := { State.reset with blCfg := true, blLevel := .val false };
      s.blCfg = true ∧ s.blLevel = .val false) ∧
    (let s : State := { State.reset with blCfg := true };
      s.blCfg = true ∧ s.blLevel = .x) ∧
    State.reset.blCfg = false := by decide

theorem witness_PConfigureCompletes :
    State.reset.pState = .unconfigured ∧ State.reset.busOwner = .free ∧
    Config.params.dataPinMap.length = 16 ∧
    badPinmap Config.params Config.params.dataPinMap = false ∧
    Config.params.timingInRange Config.timing = true ∧
    Config.timing.hRes * Config.timing.vRes * 16 / 8 ≤
      Config.params.fbCapacity Config.fbPlacement ∧
    Config.timing.pclkHz ≤ Config.params.pclkMaxHz :=
  ⟨rfl, rfl, own.dataPinCount, goodPinmap own, own.timingRange, own.capacity, own.pclkLimit⟩

/-- A case for each test, the earlier ones passed. -/
theorem witness_PConfigureErrorOrder :
    (openWith 7 []).pState = .unconfigured ∧ (openWith 7 []).busOwner ≠ .free ∧
    State.reset.pState = .unconfigured ∧ State.reset.busOwner = .free ∧
    P.dataPinMap.length = 16 ∧ (List.replicate 16 20).length = 16 ∧ (8 : Nat) ≠ 16 ∧
    badPinmap P (List.replicate 16 20) = true ∧ badPinmap P P.dataPinMap = false ∧
    badPinmap { P with timingInRange := fun _ => false } P.dataPinMap = false ∧
    ({ P with timingInRange := fun _ => false } : Params).timingInRange toy = false ∧
    badPinmap { P with fbCapacity := fun _ => 15 } P.dataPinMap = false ∧
    ({ P with fbCapacity := fun _ => 15 } : Params).timingInRange toy = true ∧
    ({ P with fbCapacity := fun _ => 15 } : Params).fbCapacity .externalMemory <
      toy.hRes * toy.vRes * 16 / 8 ∧
    badPinmap { P with pclkMaxHz := 999999 } P.dataPinMap = false ∧
    ({ P with pclkMaxHz := 999999 } : Params).timingInRange toy = true ∧
    toy.hRes * toy.vRes * 16 / 8 ≤
      ({ P with pclkMaxHz := 999999 } : Params).fbCapacity .externalMemory ∧
    ({ P with pclkMaxHz := 999999 } : Params).pclkMaxHz < toy.pclkHz := by decide

theorem witness_PResetFollowsRule :
    ({ State.reset with pState := .configured } : State).pState = .configured ∧
    State.reset.pState ≠ .configured := by decide

theorem witness_PInitFollowsRule :
    ({ State.reset with pState := .resetDone } : State).pState = .resetDone ∧
    State.reset.pState ≠ .resetDone := by decide

/-- A rectangle of the whole buffer while the engine streams. -/
theorem witness_DrawRectCopiesIn :
    ParallelInv P (streaming 0 0 ones [22] [1]) ∧
    (streaming 0 0 ones [22] [1]).pState ≠ .unconfigured ∧
    (streaming 0 0 ones [22] [1]).tc = .val toy ∧ 0 < 4 ∧ 4 ≤ toy.hRes ∧ 0 < 2 ∧
    2 ≤ toy.vRes ∧ (List.replicate 8 (2 : Pixel)).length = (4 - 0) * (2 - 0) ∧
    (streaming 0 0 ones [22] [1]).pState = .streaming :=
  ⟨streaming_inv (by decide) (by decide) (by decide), by decide, rfl, by decide, by decide,
    by decide, by decide, by decide, rfl⟩

/-- A rectangle one column too wide; a list one pixel short. -/
theorem witness_DrawRectOutOfBounds :
    (streaming 0 0 ones [] []).pState ≠ .unconfigured ∧
    (streaming 0 0 ones [] []).tc = .val toy ∧
    ¬ ((0 : Int) ≤ 0 ∧ (0 : Int) < 5 ∧ (5 : Int) ≤ toy.hRes ∧ (0 : Int) ≤ 0 ∧ (0 : Int) < 1 ∧
      (1 : Int) ≤ toy.vRes) ∧
    ((0 : Int) ≤ 0 ∧ (0 : Int) < 4 ∧ (4 : Int) ≤ toy.hRes ∧ (0 : Int) ≤ 0 ∧ (0 : Int) < 1 ∧
      (1 : Int) ≤ toy.vRes) ∧
    ((List.replicate 3 (2 : Pixel)).length : Int) ≠ (4 - 0) * (1 - 0) := by decide

/-- The torn frame of program P6: two lines are fetched between the row writes. -/
theorem witness_LineShowsRowBeforeOrAfter :
    ParallelInv P (streaming 0 0 ones [22] [1]) ∧
    (streaming 0 0 ones [22] [1]).tc = .val toy ∧
    ∃ t, exec (.drawRect 0 0 4 2 (List.replicate 8 2)) (streaming 0 0 ones [22] [1]) = .next t ∧
      t.trace = [.rowWrite 1 0 [2, 2, 2, 2], .line 0 [1, 1, 1, 1], .line 1 [2, 2, 2, 2],
        .rowWrite 0 0 [2, 2, 2, 2]] :=
  ⟨streaming_inv (by decide) (by decide) (by decide), rfl, _, rfl, rfl⟩

theorem witness_FrameBufferWriters :
    ∃ t, exec .close (openWith 7 []) = .next t ∧
      (∀ x0 y0 x1 y1 px, Instr.close ≠ .drawRect x0 y0 x1 y1 px) ∧
      (∀ tc w pl pins, Instr.close ≠ .pConfigure tc w pl pins) ∧ Instr.close ≠ .bringUp :=
  ⟨_, rfl, by simp, by simp, by decide⟩

theorem witness_FrameBufferPrimitives :
    (streaming 0 0 ones [] []).fb = some ⟨8, ones⟩ ∧ Memory.wf ⟨8, ones⟩ = true ∧
    6 + [(5 : Pixel), 7].length ≤ 8 := by decide

/-- Counters at the first clock of an active line, at the last clock of a frame and in a
porch. -/
theorem witness_PixelClockStep :
    ParallelInv P (streaming 0 2 ones [] []) ∧ ParallelInv P (streaming 6 4 ones [] []) ∧
    ParallelInv P (streaming 1 0 ones [] []) ∧
    (streaming 0 2 ones [] []).program = [] ∧ (streaming 0 2 ones [] []).pState = .streaming ∧
    (streaming 0 2 ones [] []).tc = .val toy ∧ (streaming 0 2 ones [] []).hcnt = .val 0 ∧
    (streaming 0 2 ones [] []).vcnt = .val 2 ∧ 0 < toy.vRes ∧ 2 = toy.vsyncPw + toy.vbp + 0 ∧
    6 + 1 = lineTotal toy ∧ 0 < frameTotal toy ∧ 1 + 1 ≠ lineTotal toy :=
  ⟨streaming_inv (by decide) (by decide) (by decide),
    streaming_inv (by decide) (by decide) (by decide),
    streaming_inv (by decide) (by decide) (by decide),
    rfl, rfl, rfl, rfl, rfl, by decide, by decide, by decide, by decide, by decide⟩

theorem witness_FrameShowsEveryRow :
    ParallelInv P (streaming 0 0 ones [] []) ∧ (streaming 0 0 ones [] []).pState = .streaming ∧
    (streaming 0 0 ones [] []).tc = .val toy ∧ (streaming 0 0 ones [] []).hcnt = .val 0 ∧
    (streaming 0 0 ones [] []).vcnt = .val 0 ∧ 0 < lineTotal toy ∧ 0 < frameTotal toy :=
  ⟨streaming_inv (by decide) (by decide) (by decide), rfl, rfl, rfl, rfl, by decide, by decide⟩

/-- The first and the last active column, a column of the front porch, and the clock of a fetch
with a timing that has neither sync pulse nor back porch. -/
theorem witness_PixelBusLines :
    ParallelInv P (streaming 2 2 ones [] []) ∧
    (let s := streaming 2 2 ones [] [];
      s.pState = .streaming ∧ s.tc = .val toy ∧ s.hcnt = .val 2 ∧ s.vcnt = .val 2) ∧
    0 < toy.hRes ∧ 2 = toy.hsyncPw + toy.hbp + 0 ∧ 3 < toy.hRes ∧ 5 = toy.hsyncPw + toy.hbp + 3 ∧
    toy.vsyncPw + toy.vbp ≤ 2 ∧ 2 < toy.vsyncPw + toy.vbp + toy.vRes ∧
    [(9 : Pixel), 8, 7, 6][0]? = some 9 ∧ [(9 : Pixel), 8, 7, 6][3]? = some 6 ∧
    toy.hsyncPw + toy.hbp + toy.hRes ≤ 6 ∧
    ParallelInv P noPorch ∧ noPorch.pState = .streaming ∧ noPorch.hcnt = .val 0 ∧
    noPorch.vcnt = .val 3 ∧ (3 = 1 + 1 + 1 ∧ 1 < 2) ∧ fbCell noPorch (1 * 4) = .val 1 :=
  ⟨streaming_inv (by decide) (by decide) (by decide), by decide, by decide, by decide, by decide,
    by decide, by decide, by decide, rfl, rfl, by decide, noPorch_inv, rfl, rfl, rfl, by decide,
    rfl⟩

theorem witness_SyncOutputs :
    (streaming 0 0 ones [] []).pState = .streaming ∧
    (streaming 0 0 ones [] []).role = .hardwareSyncSignal ∧
    (streaming 0 0 ones [] []).tc = .val toy ∧ (streaming 0 0 ones [] []).hcnt = .val 0 ∧
    (streaming 0 0 ones [] []).vcnt = .val 0 ∧ P.sharedSyncKind = .hSync ∧
    ({ P with sharedSyncKind := .vSync } : Params).sharedSyncKind = .vSync := by decide

/-- Both ends of each window. -/
theorem witness_PhaseWindows :
    (0 : Nat) ≤ 9 ∧ 9 ≤ 9 ∧ 10 ≤ 10 ∧ 10 ≤ 49 ∧ 49 ≤ 49 ∧ 50 ≤ 50 ∧ 50 ≤ 529 ∧ 529 ≤ 529 ∧
    530 ≤ 530 ∧ 530 ≤ 537 ∧ 537 < 538 := by decide

theorem witness_BringUpCompletes :
    let s := scripted (List.replicate (programFrames Config.params) good) [] []
    s.buState = .idle ∧ s.busOwner = .free ∧ s.pState = .unconfigured ∧
      s.role ≠ .hardwareSyncSignal ∧ allComplete (programFrames Config.params) s.draws :=
  ⟨rfl, rfl, rfl, show PinRole.unassigned ≠ .hardwareSyncSignal by decide,
    allComplete_replicate _ _ rfl⟩

/-- A failure at each of the four steps: the shared pin handed off, a claimed bus (P3), a device
fault (P4), too low a pixel clock limit (V10.5). -/
theorem witness_BringUpAborts :
    P.PinsDistinct ∧ ({ P with pclkMaxHz := 14999999 } : Params).PinsDistinct ∧
    (∃ t, finish (bringUpOp P { State.reset with role := .hardwareSyncSignal }) = .next t ∧
      t.thread = .running ∧
      t.result = some (.err (.configError .pinOwnedByTimingGenerator)) ∧ t.buStep = 1) ∧
    (∃ t, finish (bringUpOp P (openWith 7 [])) = .next t ∧ t.thread = .running ∧
      t.result = some (.err (.busUnavailable .alreadyInUse)) ∧ t.buStep = 4) ∧
    (∃ t, finish (bringUpOp P (scripted [good, good, bad] [] [])) = .next t ∧
      t.thread = .running ∧ t.result = some (.err (.programAborted 2 .deviceFault)) ∧
      t.buStep = 5) ∧
    (∃ t, finish (bringUpOp { P with pclkMaxHz := 14999999 }
        (scripted (List.replicate 8 good) [] [])) = .next t ∧
      t.thread = .running ∧ t.result = some (.err (.configError .clockTooFast)) ∧
      t.buStep = 7) :=
  ⟨pins_distinct, pins_distinct, ⟨_, rfl, rfl, rfl, rfl⟩, ⟨_, rfl, rfl, rfl, rfl⟩,
    ⟨_, rfl, rfl, rfl, rfl⟩, ⟨_, rfl, rfl, rfl, rfl⟩⟩

/-- A bring-up that ends `ok`, one that fails and one that is stuck. -/
theorem witness_BacklightOnlyAfterStreamStart :
    P.PinsDistinct ∧ (scripted [hung] [] []).thread = .running ∧
    (∃ t, finish (bringUpOp P (scripted (List.replicate 8 good) [0] [])) = .next t ∧
      t.thread = .running ∧ t.result = some (.ok .none)) ∧
    (∃ t, finish (bringUpOp P (scripted [bad] [] [])) = .next t ∧
      t.thread = .running ∧ t.result = some (.err (.programAborted 0 .deviceFault))) ∧
    (∃ t, finish (bringUpOp P (scripted [hung] [] [])) = .next t ∧ t.thread = .stuck) :=
  ⟨pins_distinct, rfl, ⟨_, rfl, rfl, rfl⟩, ⟨_, rfl, rfl, rfl⟩, _, rfl, rfl⟩

/-- A complete bring-up, and one that is stuck in its first transaction (V10.7). -/
theorem witness_ResetWaitsBeforeFirstFrame :
    P.PinsDistinct ∧
    (∃ t, finish (bringUpOp P (scripted (List.replicate 8 good) [0] [])) = .next t) ∧
    (∃ t, finish (bringUpOp P (scripted [hung] [] [])) = .next t ∧ t.thread = .stuck) :=
  ⟨pins_distinct, ⟨_, rfl⟩, ⟨_, rfl, rfl⟩⟩

theorem witness_RefusedUses :
    State.reset.tState = .closed ∧ (streaming 0 0 [] [] []).pState ≠ .unconfigured ∧
    P.dataPinMap.length = 16 ∧ State.reset.pState = .unconfigured ∧
    ({ State.reset with buState := .ready } : State).buState ≠ .idle := by decide

/-- A streaming state of the hardware's own parameters, with an operation to issue. -/
def streamingOwn : State :=
  { scripted [] [3] [] with
    busOwner := .parallel, role := .hardwareSyncSignal, pState := .streaming,
    tc := .val Config.timing, pWidth := .val 16, pPlacement := .val Config.fbPlacement,
    pPinmap := .val Config.params.dataPinMap, pAlign := .val 64, fb := some ⟨230400, []⟩,
    hcnt := .val 0, vcnt := .val 0, program := [.hostOp 0x21 [.num 5]] }

theorem streamingOwn_inv : Inv Config.params streamingOwn where
  ownership := by constructor <;> simp [streamingOwn, scripted, State.reset]
  transport := by constructor <;> simp [streamingOwn, scripted, State.reset]
  parallel  := {
    absent     := by simp [streamingOwn]
    configured := fun _ => ⟨Config.timing, ⟨230400, []⟩, {
      timing    := rfl
      width     := rfl
      align     := rfl
      pinmap    := ⟨_, rfl, own.dataPinCount, goodPinmap own⟩
      placement := ⟨_, rfl, own.capacity⟩
      inRange   := own.timingRange
      clock     := own.pclkLimit
      buffer    := rfl
      size      := rfl
      canonical := rfl
      line      := by simp [streamingOwn, scripted, State.reset] }⟩
    unknown    := by simp [streamingOwn]
    zeroed     := by simp [streamingOwn]
    counting   := fun _ => ⟨Config.timing, 0, 0, rfl, rfl, rfl, fun h => h, fun h => h⟩ }
  sequencer := by constructor <;> simp [streamingOwn, scripted, State.reset]

/-- The step of that state: three pixel clocks, then `DELAY 5`. -/
theorem streamingOwn_step : ∃ t, step streamingOwn = .next t ∧ t.hcnt = .val 3 ∧
    t.trace = [.wait 5] := ⟨_, rfl, rfl, rfl⟩

theorem witness_StepKeepsInvariant :
    Inv Config.params streamingOwn ∧ ∃ t, step streamingOwn = .next t :=
  ⟨streamingOwn_inv, streamingOwn_step.imp fun _ h => h.1⟩

theorem witness_StepNeverFaults : Inv Config.params streamingOwn := streamingOwn_inv

theorem witness_TraceOnlyGrows : ∃ t, step streamingOwn = .next t ∧ t.trace = [.wait 5] :=
  streamingOwn_step.imp fun _ h => ⟨h.1, h.2.2⟩

theorem witness_HandOffsAreOneWay :
    OwnershipInv streamingOwn ∧ (∃ t, step streamingOwn = .next t) ∧
    streamingOwn.busOwner = .parallel ∧ streamingOwn.role = .hardwareSyncSignal ∧
    streamingOwn.pState = .streaming ∧ streamingOwn.pState ≠ .unconfigured :=
  ⟨streamingOwn_inv.ownership, streamingOwn_step.imp fun _ h => h.1, rfl, rfl, rfl,
    show PState.streaming ≠ .unconfigured by decide⟩

theorem witness_StuckThreadStaysStuck :
    ParallelInv P { streaming 0 2 ones [] [] with thread := .stuck } ∧
    ({ streaming 0 2 ones [] [] with thread := .stuck } : State).thread = .stuck :=
  ⟨(streaming_inv (h := 0) (v := 2) (cells := ones) (clocks := []) (picks := []) (by decide)
    (by decide) (by decide)).of_eq rfl rfl rfl rfl rfl rfl rfl rfl rfl rfl, rfl⟩

/-- One instruction for each of the four exact errors. -/
theorem witness_ExactErrorsChangeNothing :
    (∃ t, exec (.configureOutput Config.params.pinShared) (streaming 0 0 ones [] []) = .next t ∧
      t.thread = .running ∧
      t.result = some (.err (.configError .pinOwnedByTimingGenerator))) ∧
    (∃ t, exec (.openBus 0 1 0 3 7) (openWith 7 []) = .next t ∧ t.thread = .running ∧
      t.result = some (.err (.busUnavailable .alreadyInUse))) ∧
    (∃ t, exec (.drawRect 0 0 5 1 []) (streaming 0 0 ones [] []) = .next t ∧
      t.thread = .running ∧ t.result = some (.err (.outOfBounds .badRect))) ∧
    (∃ t, exec (.send 0x012) (openWith 0 []) = .next t ∧ t.thread = .running ∧
      t.result = some (.err (.transportError .queueFull))) ∧
    Instr.send 0x012 ≠ .bringUp := by
  refine ⟨⟨{ streaming 0 0 ones [] [] with
      result := some (.err (.configError .pinOwnedByTimingGenerator)) }, ?_, rfl, rfl⟩,
    ⟨_, rfl, rfl, rfl⟩, ⟨_, rfl, rfl, rfl⟩, ⟨_, rfl, rfl, rfl⟩, by decide⟩
  · show finish (configureOutputOp Config.params Config.params.pinShared _) = _
    rw [configureOutputOp, if_pos rfl]
    rfl

/-- An error of an operation (the kinds are those of the statement above). -/
theorem witness_ErrorsByInstruction :
    ∃ t, exec (.openBus 0 1 0 3 7) (openWith 7 []) = .next t ∧ t.thread = .running ∧
      t.result = some (.err (.busUnavailable .alreadyInUse)) := ⟨_, rfl, rfl, rfl⟩

end Sys2Proof.Tests
end

/-! The family 00_scope.md: the ends `stuck` and `refuse` of an operation, the bits on the wire,
the phases of the raster and the derived constants. -/

namespace Sys2Proof.Machine

/-! ## A stuck thread (R13, R222) -/

theorem step_of_stuck {s : State} (h : s.thread = .stuck) : step s = idleStep s := by
  simp only [step, h]

theorem idleStep_of_pixelClock {s t : State} (h : pixelClock s = .ok t) : idleStep s = .next t := by
  simp only [idleStep, h]

/-- Settles O56: the step is the engine's pixel clock, which the invariant lets succeed and which
writes the engine's registers, its `Line` events and its draws only. -/
theorem stuckThreadStaysStuck : Obligations.StuckThreadStaysStuck := by
  intro P s hinv hstuck
  obtain ⟨t, hclock, -⟩ := pixelClock_keeps hinv
  have hengine : EngineOnly s t := pixelClock_engine hclock
  have hstep : step s = .next t := by
    rw [step_of_stuck hstuck, idleStep_of_pixelClock hclock]
  exact ⟨t, hstep, hengine.frame, hengine.threadEvents⟩

/-! ## Bits on the wire (R65, R126) -/

@[simp] theorem shiftOut_length (u : Unit9) (n : Nat) : (shiftOut u n).length = n := by
  induction n with
  | zero => rfl
  | succ n ih => rw [shiftOut, List.length_cons, ih]

/-- R65: most significant bit first. -/
theorem shiftOut_getElem? (u : Unit9) {n k : Nat} (h : k < n) :
    (shiftOut u n)[k]? = some (u.getLsbD (n - 1 - k)) := by
  induction n generalizing k with
  | zero => omega
  | succ n ih =>
    cases k with
    | zero => rfl
    | succ k =>
      rw [shiftOut, List.getElem?_cons_succ, ih (by omega)]
      congr 2
      omega

theorem wireBits_length (u : Unit9) : (wireBits u).length = 9 := shiftOut_length u 9

theorem wireBits_getElem? (u : Unit9) {k : Nat} (h : k < 9) :
    (wireBits u)[k]? = some (u.getLsbD (8 - k)) := shiftOut_getElem? u h

theorem frameKind_of_role_false {u : Unit9} (h : unitRole u = false) :
    frameKind u = .command (unitByte u) := by
  simp [frameKind, h]

theorem frameKind_of_role_true {u : Unit9} (h : unitRole u = true) :
    frameKind u = .value (unitByte u) := by
  simp [frameKind, h]

/-- Settles O18, by the order of `shiftOut`, of which the role bit is the first. -/
theorem wireBitOrder : Obligations.WireBitOrder := fun _ u =>
  ⟨wireBits_length u, fun _ hk => wireBits_getElem? u hk, wireBits_getElem? u (by decide),
    frameKind_of_role_false, frameKind_of_role_true, rfl⟩

/-! ## The phases of a line and of a frame (R181) -/

section Phases

variable {sync porch res n : Nat}

theorem phaseOf_sync (h : n < sync) : phaseOf sync porch res n = .sync := if_pos h

theorem phaseOf_backPorch (hlo : sync ≤ n) (hhi : n < sync + porch) :
    phaseOf sync porch res n = .backPorch := by
  rw [phaseOf, if_neg (by omega), if_pos hhi]

theorem phaseOf_active (hlo : sync + porch ≤ n) (hhi : n < sync + porch + res) :
    phaseOf sync porch res n = .active (n - (sync + porch)) := by
  rw [phaseOf, if_neg (by omega), if_neg (by omega), if_pos hhi]

theorem phaseOf_frontPorch (h : sync + porch + res ≤ n) :
    phaseOf sync porch res n = .frontPorch := by
  rw [phaseOf, if_neg (by omega), if_neg (by omega), if_neg (by omega)]

end Phases

/-- R8: the sync width, the back porch and the resolution of a line. -/
theorem linePhase_timing (n : Nat) : linePhase Config.timing n = phaseOf 10 40 480 n := rfl

/-- R8: the same three numbers hold for a frame. -/
theorem framePhase_timing (n : Nat) : framePhase Config.timing n = phaseOf 10 40 480 n := rfl

/-- Settles O46: each window is a phase of `phaseOf` at the numbers of R8. -/
theorem phaseWindows : Obligations.PhaseWindows := by
  intro n _
  rw [linePhase_timing, framePhase_timing]
  refine ⟨rfl, fun hi => ?_, fun lo hi => ?_, fun lo hi => ?_, fun lo => ?_⟩
  · exact phaseOf_sync (by omega)
  · exact phaseOf_backPorch lo (by omega)
  · exact phaseOf_active lo (by omega)
  · exact phaseOf_frontPorch lo

/-! ## Refused uses (R14) -/

/-- R14: an operation that refuses refuses the instruction. -/
theorem exec_refused {i : Instr} {s : State} {r : Refusal} (h : opOf i s = .refuse r) :
    exec i s = .refused r := by
  rw [exec_eq, h]; rfl

section Refusals

variable (P : Params) {s : State}

/-- R124. -/
theorem sendOp_closed (u : Unit9) (h : s.tState = .closed) :
    sendOp P u s = .refuse .sendOnClosedTransport := if_pos (by simp [h])

/-- R137. -/
theorem runOp_closed (h : s.tState = .closed) : runOp P s = .refuse .runOnClosedTransport :=
  if_pos (by simp [h])

/-- R167: the number of pins is tested first. -/
theorem pConfigureOp_again (tc : TimingConfig) (width : Nat) (pl : Placement) {pins : List PinId}
    (hpins : pins.length = 16) (h : s.pState ≠ .unconfigured) :
    pConfigureOp P tc width pl pins s = .refuse .reconfigure := by
  rw [pConfigureOp, if_neg (not_not_intro hpins), if_pos h]

/-- R176. -/
theorem drawRectOp_unconfigured (x0 y0 x1 y1 : Int) (px : List Pixel)
    (h : s.pState = .unconfigured) :
    drawRectOp x0 y0 x1 y1 px s = .refuse .noFrameBuffer := if_pos h

/-- R190. -/
theorem bringUpOp_again (h : s.buState ≠ .idle) : bringUpOp P s = .refuse .bringUpTwice :=
  if_pos h

end Refusals

/-- Settles O51, by the refusal of each operation. -/
theorem refusedUses : Obligations.RefusedUses := by
  intro s
  refine ⟨fun hclosed u b => ⟨?_, ?_, ?_, ?_⟩, fun hconf tc w pl pins hpins => ?_,
    fun hunconf x0 y0 x1 y1 px => ?_, fun hbusy => ?_⟩
  · exact exec_refused (sendOp_closed _ u hclosed)
  · exact exec_refused (sendOp_closed _ _ hclosed)
  · exact exec_refused (sendOp_closed _ _ hclosed)
  · exact exec_refused (runOp_closed _ hclosed)
  · exact exec_refused (pConfigureOp_again _ tc w pl hpins hconf)
  · exact exec_refused (drawRectOp_unconfigured x0 y0 x1 y1 px hunconf)
  · exact exec_refused (bringUpOp_again _ hbusy)

/-! ## The derived constants (R10) -/

/-- R106: the line total of the bring-up's timing, whatever the numbers of R8. -/
theorem lineTotal_timing : lineTotal Config.timing = Config.hTotal := rfl

/-- R106: the frame total of the bring-up's timing, whatever the numbers of R8. -/
theorem frameTotal_timing : frameTotal Config.timing = Config.vTotal := rfl

/-- Settles O60, by evaluation of the numbers of R8. -/
theorem derivedConstants : Obligations.DerivedConstants :=
  ⟨rfl, rfl, rfl, rfl, rfl, rfl, rfl, rfl, lineTotal_timing, frameTotal_timing⟩

end Sys2Proof.Machine

/-! The family 10_state.md: the values after reset, the lines of the two pins, what every
operation does to the trace and to the hand-offs, that the ghost is read by nothing but itself,
and the invariant of the machine. -/

namespace Sys2Proof.Machine

/-! ## What drives the two pins (R33) -/

section Lines

variable {s : State}

theorem sharedPinLine_of_reset (P : Params) (h : s.role = .digitalResetOutput) :
    sharedPinLine P s = latchLine s.rstLevel := by
  simp only [sharedPinLine, h]

theorem sharedPinLine_of_unassigned (P : Params) (h : s.role = .unassigned) :
    sharedPinLine P s = .x := by
  simp only [sharedPinLine, h]

theorem sharedPinLine_of_sync (P : Params) (h : s.role = .hardwareSyncSignal) :
    sharedPinLine P s = sharedSync P s := by
  simp only [sharedPinLine, h]

theorem hsyncLine_idle (h : s.pState ≠ .streaming) : hsyncLine s = .x := by
  unfold hsyncLine
  split
  · contradiction
  · rfl

theorem vsyncLine_idle (h : s.pState ≠ .streaming) : vsyncLine s = .x := by
  unfold vsyncLine
  split
  · contradiction
  · rfl

/-- R185: without streaming there is no sync signal of any kind. -/
theorem sharedSync_idle (P : Params) (h : s.pState ≠ .streaming) : sharedSync P s = .x := by
  unfold sharedSync
  cases P.sharedSyncKind
  · exact hsyncLine_idle h
  · exact vsyncLine_idle h
  · rfl

theorem backlightLine_on (h : s.blCfg = true) : backlightLine s = latchLine s.blLevel := if_pos h

theorem backlightLine_off (h : s.blCfg = false) : backlightLine s = .x := if_neg (by simp [h])

end Lines

/-- Settles O30, by the line that each role of the shared pin and the backlight's latch give. -/
theorem lineDrive : Obligations.LineDrive := by
  intro P s
  refine ⟨fun l hr hl => ?_, fun hr hl => ?_, sharedPinLine_of_unassigned P, fun hr hp => ?_,
    sharedPinLine_of_sync P, fun l hb hl => ?_, fun hb hl => ?_, backlightLine_off⟩
  · rw [sharedPinLine_of_reset P hr, hl]; rfl
  · rw [sharedPinLine_of_reset P hr, hl]; rfl
  · rw [sharedPinLine_of_sync P hr, sharedSync_idle P hp]
  · rw [backlightLine_on hb, hl]; rfl
  · rw [backlightLine_on hb, hl]; rfl

/-! ## The state after reset (R52) -/

/-- Settles O9: each element by evaluation, the two pins by what drives them. -/
theorem powerOnResetValues : Obligations.PowerOnResetValues :=
  ⟨rfl, rfl, rfl, rfl, rfl, rfl, rfl, rfl, rfl, rfl, rfl, rfl, rfl, rfl, rfl, rfl, rfl, rfl, rfl,
    rfl, rfl, rfl, rfl, rfl, rfl, rfl, rfl, rfl, rfl, rfl,
    fun P => sharedPinLine_of_unassigned P rfl, backlightLine_off rfl⟩

/-- Settles O10: before any configuration no clause about an owner, a buffer or a counter has
anything to hold of. -/
theorem resetSatisfiesInvariant : Obligations.ResetSatisfiesInvariant := by
  intro P
  have ownership : OwnershipInv State.reset :=
    ⟨by decide, by decide, by decide⟩
  have transport : TransportInv State.reset :=
    ⟨nofun, nofun, fun _ => rfl⟩
  have parallel : ParallelInv P State.reset :=
    ⟨fun _ => rfl, fun h => absurd rfl h, nofun, nofun, nofun⟩
  have sequencer : SequencerInv P State.reset :=
    ⟨Nat.zero_le _, nofun, Nat.zero_le _, nofun, by decide, nofun, nofun, nofun⟩
  exact ⟨ownership, transport, parallel, sequencer⟩

/-! ## Handles (R44) -/

/-- R44: the two pins a handle can be valid for. -/
theorem handleValid_iff {P : Params} {s : State} {h : PinId} :
    handleValid P s h = true ↔
      (h = P.pinShared ∧ s.role = .digitalResetOutput) ∨ (h = P.pinBl ∧ s.blCfg = true) := by
  simp [handleValid]

/-- R154, R155: the shared pin's latch is set while the pin is the reset output. -/
theorem setLevelOp_shared {P : Params} {s : State} (l : Level) (h : s.role = .digitalResetOutput) :
    setLevelOp P P.pinShared l s = .ok .none
      (panelAfterResetLine (emit (.level P.pinShared l) { s with rstLevel := .val l })) := by
  rw [setLevelOp, if_pos rfl]
  simp only [h]

/-- R154: the backlight pin's latch is set while the pin is an output; R150 keeps the two pins
apart. -/
theorem setLevelOp_backlight {P : Params} {s : State} (l : Level) (hne : P.pinBl ≠ P.pinShared)
    (h : s.blCfg = true) :
    setLevelOp P P.pinBl l s =
      .ok .none (emit (.level P.pinBl l) { s with blLevel := .val l }) := by
  rw [setLevelOp, if_neg hne, if_pos rfl, if_pos h]

/-- Settles O27: of the ends of `SET_LEVEL` only `ok` returns an `ok`, and it needs its pin to be an
output now. -/
theorem levelSetExactlyThroughValidHandle : Obligations.LevelSetExactlyThroughValidHandle := by
  intro s h l
  rw [handleValid_iff, exec_eq]
  constructor
  · rintro ⟨t, ht, hres⟩
    have hends := setLevelOp_ends Config.params h l s
    obtain ⟨v, u, ho, -⟩ | ⟨e, u, -, rfl⟩ | ⟨u, ho, -⟩ := finish_next ht
    · rw [show setLevelOp Config.params h l s = .ok v u from ho] at hends
      obtain ⟨-, ⟨hpin, hrole, -⟩ | ⟨-, hpin, hcfg, -⟩⟩ := hends
      · exact .inl ⟨hpin, hrole⟩
      · exact .inr ⟨hpin, hcfg⟩
    · simp at hres
    · rw [show setLevelOp Config.params h l s = .stuck u from ho] at hends
      exact hends.elim
  · rintro (⟨rfl, hrole⟩ | ⟨rfl, hcfg⟩)
    · exact ⟨_, congrArg finish (setLevelOp_shared l hrole), rfl⟩
    · exact ⟨_, congrArg finish (setLevelOp_backlight l
        (Ne.symm Config.params_constraints.pinsDistinct.1) hcfg), rfl⟩

end Sys2Proof.Machine

/-! What every operation does to the trace, to the owners of bus and pin, and to the latched
configuration, in every state. -/

namespace Sys2Proof.Machine

/-! ## The one-way changes of a state (R27, R31, R34, R35, R36, R48) -/

/-- The fields that the ownership of bus and pin and the latched configuration consist of. -/
def handOffView (s : State) : BusOwner × TState × PinRole × PState × Xv TimingConfig × Xv Nat ×
    Xv Placement × Xv (List PinId) × Xv Nat :=
  (s.busOwner, s.tState, s.role, s.pState, s.tc, s.pWidth, s.pPlacement, s.pPinmap, s.pAlign)

/-- From `s` to `t` nothing that was handed over came back, and a configuration stayed fixed. -/
structure HandOffsKept (s t : State) : Prop where
  bus        : s.busOwner = .parallel → t.busOwner = .parallel
  pin        : s.role = .hardwareSyncSignal → t.role = .hardwareSyncSignal
  streaming  : s.pState = .streaming → t.pState = .streaming
  configured : s.pState ≠ .unconfigured →
    t.pState ≠ .unconfigured ∧ t.tc = s.tc ∧ t.pWidth = s.pWidth ∧
    t.pPlacement = s.pPlacement ∧ t.pPinmap = s.pPinmap ∧ t.pAlign = s.pAlign

/-- What every operation and the engine do to a state: the trace grows, single ownership stays,
and under single ownership the hand-offs are kept. -/
structure Onward (s t : State) : Prop where
  trace     : s.trace <+: t.trace
  ownership : OwnershipInv s → OwnershipInv t
  handOffs  : OwnershipInv s → HandOffsKept s t

theorem HandOffsKept.trans {s t u : State} (h : HandOffsKept s t) (k : HandOffsKept t u) :
    HandOffsKept s u where
  bus hs := k.bus (h.bus hs)
  pin hs := k.pin (h.pin hs)
  streaming hs := k.streaming (h.streaming hs)
  configured hs := by
    obtain ⟨ht, htc, hw, hpl, hpin, hal⟩ := h.configured hs
    obtain ⟨hu, ktc, kw, kpl, kpin, kal⟩ := k.configured ht
    exact ⟨hu, ktc.trans htc, kw.trans hw, kpl.trans hpl, kpin.trans hpin, kal.trans hal⟩

theorem Onward.trans {s t u : State} (h : Onward s t) (k : Onward t u) : Onward s u where
  trace := h.trace.trans k.trace
  ownership hs := k.ownership (h.ownership hs)
  handOffs hs := (h.handOffs hs).trans (k.handOffs (h.ownership hs))

/-- A change that leaves the owners and the configuration alone. -/
theorem Onward.of_view {s t : State} (htrace : s.trace <+: t.trace)
    (hview : handOffView t = handOffView s) : Onward s t := by
  simp only [handOffView, Prod.mk.injEq] at hview
  obtain ⟨hbus, hopen, hrole, hp, htc, hw, hpl, hpin, hal⟩ := hview
  refine ⟨htrace, fun hs => ⟨?_, ?_, ?_⟩, fun _ => ⟨?_, ?_, ?_, ?_⟩⟩
  · rw [hopen, hbus]; exact hs.openIff
  · rw [hbus, hp]; exact hs.parallelIff
  · rw [hrole, hp]; exact hs.syncIff
  · rw [hbus]; exact id
  · rw [hrole]; exact id
  · rw [hp]; exact id
  · rw [hp]; exact fun hs => ⟨hs, htc, hw, hpl, hpin, hal⟩

/-- Such a change without an event. -/
theorem Onward.of_silent {s t : State} (htrace : t.trace = s.trace)
    (hview : handOffView t = handOffView s) : Onward s t :=
  .of_view ⟨[], by rw [htrace, List.append_nil]⟩ hview

theorem Onward.refl (s : State) : Onward s s := .of_silent rfl rfl

/-- A change given by the whole state it leads to. -/
theorem Onward.of_eq {s t u : State} (ht : t = u) (h : Onward s u) : Onward s t := ht ▸ h

/-- The engine writes no more than its own registers, the trace and the draws. -/
theorem EngineOnly.onward {s t : State} (h : EngineOnly s t) : Onward s t := by
  obtain ⟨ls, -, htrace⟩ := h.lines
  exact .of_view ⟨ls, htrace.symm⟩ (by rw [h.frame]; rfl)

theorem seam_onward {s t : State} (h : seam s = .ok t) : Onward s t := (seam_engine h).onward

/-! ## Operations that only go onward -/

/-- The operation takes every state onward, however it ends. -/
def GoesOnward (f : State → OpOut) : Prop := ∀ s, (f s).Leaves (Onward s) (Onward s) True

theorem GoesOnward.after {f : State → OpOut} (hf : GoesOnward f) {s t : State} (h : Onward s t) :
    (f t).Leaves (Onward s) (Onward s) True :=
  (hf t).mono (fun _ _ => h.trans) (fun _ _ => h.trans) (fun _ => h.trans) (fun _ => id) fun _ => id

theorem delayOp_onward (t : Ms) : GoesOnward (delayOp t) :=
  fun _ => .of_view ⟨_, rfl⟩ rfl

theorem openOp_onward (P : Params) (bus : BusId) (clk mode : Nat) (sel : PinId) (depth : Nat) :
    GoesOnward (openOp P bus clk mode sel depth) := by
  intro s
  refine (openOp_ends P bus clk mode sel depth s).mono ?_ ?_ (fun _ => False.elim)
    (fun _ => False.elim) fun _ => False.elim
  · rintro v t ⟨-, hfree, -, rfl⟩
    refine ⟨⟨_, rfl⟩, fun hs => ⟨by simp, ?_, hs.syncIff⟩, fun _ => ⟨?_, id, id, ?_⟩⟩
    · have := hs.parallelIff
      simpa [hfree] using this
    · intro hbus; rw [hfree] at hbus; cases hbus
    · exact fun hp => ⟨hp, rfl, rfl, rfl, rfl, rfl⟩
  · rintro e t ⟨-, rfl⟩
    exact .refl _

/-- R28: only an open transport is closed, and it owns the bus. -/
theorem closeOp_onward : GoesOnward closeOp := by
  intro s
  refine (closeOp_ends s).mono ?_ (fun _ _ => False.elim) (fun _ => False.elim)
    (fun _ _ => trivial) fun _ => False.elim
  rintro v t ⟨-, hopen, rfl⟩
  refine ⟨⟨_, rfl⟩, fun hs => ⟨by simp, ?_, hs.syncIff⟩, fun hs => ⟨?_, id, id, ?_⟩⟩
  · have := hs.parallelIff
    simpa [hs.openIff.mp hopen] using this
  · intro hbus; rw [hs.openIff.mp hopen] at hbus; cases hbus
  · exact fun hp => ⟨hp, rfl, rfl, rfl, rfl, rfl⟩

theorem sendOp_onward (P : Params) (u : Unit9) : GoesOnward (sendOp P u) := by
  intro s
  refine (sendOp_ends P u s).mono ?_ ?_ ?_ (fun _ _ => trivial) fun _ => False.elim
  · rintro v t ⟨-, -, ht⟩
    exact .of_eq ht (.of_view ⟨_, rfl⟩ rfl)
  · rintro e t ⟨-, ⟨-, ht⟩ | ⟨cause, -, -, ht⟩⟩
    · exact .of_eq ht (.of_silent rfl rfl)
    · exact .of_eq ht (.of_view ⟨_, rfl⟩ rfl)
  · rintro t ⟨-, -, -, ht⟩
    exact .of_eq ht (.of_silent rfl rfl)

theorem runOp_onward (P : Params) : GoesOnward (runOp P) := by
  intro s
  refine (runOp_ends P s).mono ?_ ?_ ?_ (fun _ _ => trivial) fun _ => False.elim
  · rintro v t ⟨-, -, ht⟩
    exact .of_eq ht (.of_view ⟨_, rfl⟩ rfl)
  · rintro e t ⟨-, k, cause, u, -, -, ht⟩
    exact .of_eq ht (.of_view ⟨_, rfl⟩ rfl)
  · rintro t ⟨-, -, k, u, -, -, ht⟩
    exact .of_eq ht (.of_view ⟨_, rfl⟩ rfl)

/-- R151: the shared pin becomes a reset output only from no role at all. -/
theorem configureOutputOp_onward (P : Params) (pin : PinId) :
    GoesOnward (configureOutputOp P pin) := by
  intro s
  refine (configureOutputOp_ends P pin s).mono ?_ ?_ (fun _ => False.elim) (fun _ _ => trivial)
    fun _ => False.elim
  · rintro v t ⟨-, ⟨-, hrole, rfl⟩ | ⟨-, -, rfl⟩ | ⟨-, -, rfl⟩⟩
    · refine ⟨⟨_, rfl⟩, fun hs => ⟨hs.openIff, hs.parallelIff, ?_⟩, fun _ => ⟨id, ?_, id, ?_⟩⟩
      · have := hs.syncIff
        simpa [hrole] using this
      · intro hsync; rw [hrole] at hsync; cases hsync
      · exact fun hp => ⟨hp, rfl, rfl, rfl, rfl, rfl⟩
    · exact .refl _
    · exact .of_silent rfl rfl
  · rintro e t ⟨-, -, -, rfl⟩
    exact .refl _

theorem setLevelOp_onward (P : Params) (h : PinId) (l : Level) : GoesOnward (setLevelOp P h l) := by
  intro s
  refine (setLevelOp_ends P h l s).mono ?_ ?_ (fun _ => False.elim) (fun _ _ => trivial)
    fun _ => False.elim
  · rintro v t ⟨-, ⟨-, -, rfl⟩ | ⟨-, -, -, rfl⟩⟩
    · exact .of_view ⟨_, rfl⟩ rfl
    · exact .of_view ⟨_, rfl⟩ rfl
  · rintro e t ⟨-, -, -, rfl⟩
    exact .refl _

theorem inSequence_onward {fs : List (State → OpOut)} (h : ∀ f ∈ fs, GoesOnward f) :
    GoesOnward (inSequence fs) := fun s =>
  inSequence_leaves (fun _ _ ht hu => ht.trans (seam_onward hu)) (fun _ _ _ _ => trivial) fs
    (fun f hf _ ht => (h f hf).after ht) s (.refl s)

/-- R156: the calls of the reset sequence are `SET_LEVEL`s of its handle and `DELAY`s. -/
theorem mem_resetCalls {P : Params} {h : PinId} {f : State → OpOut} (hf : f ∈ resetCalls P h) :
    (∃ l, f = setLevelOp P h l) ∨ ∃ t, f = delayOp t := by
  simp only [resetCalls, List.mem_cons, List.not_mem_nil, or_false] at hf
  obtain rfl | rfl | rfl | rfl | rfl | rfl := hf
  · exact .inl ⟨_, rfl⟩
  · exact .inr ⟨_, rfl⟩
  · exact .inl ⟨_, rfl⟩
  · exact .inr ⟨_, rfl⟩
  · exact .inl ⟨_, rfl⟩
  · exact .inr ⟨_, rfl⟩

/-- R157: a complete sequence changes no more than the ghost. -/
theorem panelAfterResetSequence_eq (P : Params) (h : PinId) (s : State) :
    panelAfterResetSequence P h s =
      { s with panel := if h = P.pinShared then .reset else s.panel } := by
  unfold panelAfterResetSequence
  split <;> rfl

theorem timedResetOp_onward (P : Params) (h : PinId) : GoesOnward (timedResetOp P h) := by
  intro s
  refine (inSequence_onward (fun f hf => ?_) s).call fun t ht => ht.trans ?_
  · obtain ⟨l, rfl⟩ | ⟨d, rfl⟩ := mem_resetCalls hf
    · exact setLevelOp_onward P h l
    · exact delayOp_onward d
  · rw [panelAfterResetSequence_eq]
    exact .of_silent rfl rfl

/-- R167, R169: bus and pin are handed over, once. -/
theorem pConfigureOp_onward (P : Params) (tc : TimingConfig) (width : Nat) (pl : Placement)
    (pins : List PinId) : GoesOnward (pConfigureOp P tc width pl pins) := by
  intro s
  refine (pConfigureOp_ends P tc width pl pins s).mono ?_ ?_ (fun _ => False.elim)
    (fun _ _ => trivial) fun _ => False.elim
  · rintro v t ⟨-, -, hunconf, hfree, -, -, -, -, -, rfl⟩
    refine ⟨⟨_, rfl⟩, fun hs => ⟨?_, by simp, by simp⟩,
      fun _ => ⟨fun _ => rfl, fun _ => rfl, ?_, ?_⟩⟩
    · have := hs.openIff
      simpa [hfree] using this
    · intro hp; rw [hunconf] at hp; cases hp
    · exact fun hp => absurd hunconf hp
  · rintro e t ⟨-, rfl⟩
    exact .refl _

/-- A move of the interface from one configured state to another, its configuration kept. -/
theorem Onward.of_configured {s t : State} (hs : s.pState ≠ .unconfigured)
    (hstream : s.pState ≠ .streaming) (ht : t.pState ≠ .unconfigured)
    (htrace : s.trace <+: t.trace)
    (hview : handOffView t = handOffView { s with pState := t.pState }) : Onward s t := by
  simp only [handOffView, Prod.mk.injEq] at hview
  obtain ⟨hbus, hopen, hrole, -, htc, hw, hpl, hpin, hal⟩ := hview
  refine ⟨htrace, fun ho => ⟨?_, ?_, ?_⟩,
    fun _ => ⟨?_, ?_, fun h => absurd h hstream, fun _ => ?_⟩⟩
  · rw [hopen, hbus]; exact ho.openIff
  · simpa [hbus, hs, ht] using ho.parallelIff
  · simpa [hrole, hs, ht] using ho.syncIff
  · rw [hbus]; exact id
  · rw [hrole]; exact id
  · exact ⟨ht, htc, hw, hpl, hpin, hal⟩

theorem pResetOp_onward : GoesOnward pResetOp := by
  intro s
  refine (pResetOp_ends s).mono ?_ (fun _ _ => False.elim) (fun _ => False.elim)
    (fun _ _ => trivial) fun _ => False.elim
  rintro v t ⟨-, hp, rfl⟩
  exact .of_configured (by rw [hp]; decide) (by rw [hp]; decide)
    (by simp) ⟨_, rfl⟩ rfl

theorem pInitOp_onward : GoesOnward pInitOp := by
  intro s
  refine (pInitOp_ends s).mono ?_ (fun _ _ => False.elim) (fun _ => False.elim)
    (fun _ _ => trivial) fun _ => False.elim
  rintro v t ⟨-, hp, rfl⟩
  exact .of_configured (by rw [hp]; decide) (by rw [hp]; decide)
    (by simp) ⟨_, rfl⟩ rfl

/-- R178: a row write touches the buffer and the trace. -/
theorem writeRow_onward {w x0 y0 n r : Nat} {pixels : List Pixel} {s t : State}
    (h : writeRow w x0 y0 n pixels r s = .ok t) : Onward s t := by
  unfold writeRow at h
  split at h
  · cases h
  · next u hu =>
    obtain ⟨m, -, -, rfl⟩ := memWrite_ok hu
    cases h
    exact .of_view ⟨_, rfl⟩ rfl

/-- The choice of a row makes no more than a draw. -/
theorem nextRow_snd (rows : List Nat) (s : State) : ∃ d, (nextRow rows s).2 = setDraws d s := by
  unfold nextRow
  split
  · exact ⟨s.draws, rfl⟩
  · exact ⟨s.draws, rfl⟩
  · exact ⟨_, rfl⟩

theorem nextRow_onward (rows : List Nat) (s : State) : Onward s (nextRow rows s).2 := by
  obtain ⟨d, hd⟩ := nextRow_snd rows s
  rw [hd]
  exact .of_silent rfl rfl

theorem writeRows_onward (w x0 y0 n : Nat) (pixels : List Pixel) :
    ∀ (fuel : Nat) (rows : List Nat), GoesOnward (writeRows w x0 y0 n pixels fuel rows)
  | 0, _ => fun s => .refl s
  | fuel + 1, rows => by
    intro s
    have hrow := nextRow_onward rows s
    unfold writeRows
    dsimp only
    split
    · exact hrow
    · exact afterPart_ends (fun _ ht => hrow.trans (writeRow_onward ht)) fun _ _ => trivial
    · refine afterPart_ends (fun t ht => ?_) fun _ _ => trivial
      refine afterPart_ends (fun u hu => ?_) fun _ _ => trivial
      exact (writeRows_onward w x0 y0 n pixels fuel _).after
        ((hrow.trans (writeRow_onward ht)).trans (seam_onward hu))

theorem drawRectOp_onward (x0 y0 x1 y1 : Int) (px : List Pixel) :
    GoesOnward (drawRectOp x0 y0 x1 y1 px) := by
  intro s
  unfold drawRectOp
  have hread : Onward s (readX s.tc s).2 := (EngineOnly.ofDraws s _).onward
  split
  · trivial
  · dsimp only
    split
    · exact hread
    · exact (writeRows_onward _ _ _ _ _ _ _).after hread

/-! ## The master sequencer and the step -/

theorem bringUpTable_onward (P : Params) : ∀ f ∈ bringUpTable P, GoesOnward f := by
  simp only [bringUpTable, List.forall_mem_cons, List.not_mem_nil, false_imp_iff, implies_true,
    and_true]
  exact ⟨configureOutputOp_onward P _, configureOutputOp_onward P _, setLevelOp_onward P _ _,
    timedResetOp_onward P _, openOp_onward P _ _ _ _ _, runOp_onward P, closeOp_onward,
    pConfigureOp_onward P _ _ _ _, pResetOp_onward, pInitOp_onward, setLevelOp_onward P _ _⟩

theorem bringUpOp_onward (P : Params) : GoesOnward (bringUpOp P) := by
  intro s
  unfold bringUpOp
  split
  · trivial
  · have hsteps :
        (bringUpSteps (bringUpTable P) (startBringUp s)).Leaves (Onward s) (Onward s) True :=
      bringUpSteps_leaves (fun _ _ ht hu => ht.trans (seam_onward hu)) (fun _ _ _ _ => trivial)
        (fun _ ht => ht.trans (.of_silent rfl rfl))
        (fun _ _ ht => ht.trans (.of_silent rfl rfl)) _
        (fun f hf _ ht => (bringUpTable_onward P f hf).after ht) _
        (.of_silent rfl rfl)
    exact hsteps.call fun t ht => ht.trans (.of_silent rfl rfl)

/-- Every instruction takes every state onward. -/
theorem opOf_onward : ∀ i : Instr, GoesOnward (opOf i)
  | .encCmd _ | .encData _ | .decUnit _ => .refl
  | .openBus _ _ _ _ _ => openOp_onward _ _ _ _ _ _
  | .send _ | .cmd _ | .data _ => sendOp_onward _ _
  | .close => closeOp_onward
  | .run => runOp_onward _
  | .delay _ => delayOp_onward _
  | .configureOutput _ => configureOutputOp_onward _ _
  | .setLevel _ _ => setLevelOp_onward _ _ _
  | .timedResetSequence _ => timedResetOp_onward _ _
  | .pConfigure _ _ _ _ => pConfigureOp_onward _ _ _ _ _
  | .pReset => pResetOp_onward
  | .pInit => pInitOp_onward
  | .drawRect _ _ _ _ _ => drawRectOp_onward _ _ _ _ _
  | .bringUp => bringUpOp_onward _

theorem finish_onward {f : State → OpOut} (hf : GoesOnward f) {s t : State}
    (h : finish (f s) = .next t) : Onward s t :=
  (hf s).finish h (fun _ _ hu => hu.trans (.of_silent rfl rfl))
    fun _ hu => hu.trans (.of_silent rfl rfl)

theorem step_onward {s t : State} (h : step s = .next t) : Onward s t := by
  obtain ⟨-, hclock⟩ | ⟨c, rest, i, u, -, -, -, hseam, hop⟩ := step_cases h
  · exact (pixelClock_engine hclock).onward
  · have hfetch : Onward s { s with program := rest } := .of_silent rfl rfl
    exact (hfetch.trans (seam_onward hseam)).trans (finish_onward (opOf_onward i) hop)

/-- Settles O54: a step goes onward, and so appends to the trace. -/
theorem traceOnlyGrows : Obligations.TraceOnlyGrows := by
  intro s t h
  obtain ⟨events, htrace⟩ := (step_onward h).trace
  exact ⟨events, htrace.symm⟩

/-- Settles O55: a step goes onward, and so keeps the hand-offs under single ownership. -/
theorem handOffsAreOneWay : Obligations.HandOffsAreOneWay := by
  intro s t howned h
  obtain ⟨hbus, hpin, hstream, hconf⟩ := (step_onward h).handOffs howned
  exact ⟨hbus, hpin, hstream, hconf⟩

end Sys2Proof.Machine

/-! The ghost `PANEL` (R50): no operation's end and no other field depends on it. -/

namespace Sys2Proof.Machine

/-! ## States and ends without the ghost -/

/-- A state with the ghost forgotten. -/
def blank (s : State) : State := { s with panel := .unknown }

/-- An end of an operation with the ghost forgotten. -/
def OpOut.blank : OpOut → OpOut
  | .ok v s => .ok v (Machine.blank s)
  | .err e s => .err e (Machine.blank s)
  | .refuse r => .refuse r
  | .stuck s => .stuck (Machine.blank s)
  | .fault f => .fault f

section Fields

variable (s : State)

@[simp] theorem blank_busOwner : (blank s).busOwner = s.busOwner := rfl
@[simp] theorem blank_role : (blank s).role = s.role := rfl
@[simp] theorem blank_pState : (blank s).pState = s.pState := rfl
@[simp] theorem blank_tc : (blank s).tc = s.tc := rfl
@[simp] theorem blank_fb : (blank s).fb = s.fb := rfl
@[simp] theorem blank_hcnt : (blank s).hcnt = s.hcnt := rfl
@[simp] theorem blank_vcnt : (blank s).vcnt = s.vcnt := rfl

end Fields

/-- The operation ends alike, and leaves alike, two states that differ in the ghost only. -/
def PanelBlind (f : State → OpOut) : Prop := ∀ s, (f (blank s)).blank = (f s).blank

/-- A part of an operation neither reads nor writes the ghost. -/
def PanelFree (g : State → Except Fault State) : Prop := ∀ s, g (blank s) = (g s).map blank

theorem PanelBlind.congr {f : State → OpOut} (hf : PanelBlind f) {s t : State}
    (h : blank s = blank t) : (f s).blank = (f t).blank := by
  rw [← hf s, h, hf t]

/-- A continuation may begin with any change that two states differing in the ghost take alike. -/
theorem PanelBlind.comp {f : State → OpOut} (hf : PanelBlind f) {g : State → State}
    (hg : ∀ s, blank (g (blank s)) = blank (g s)) : PanelBlind fun s => f (g s) :=
  fun s => hf.congr (hg s)

/-! ## The combinators -/

theorem call_blank {k : State → OpOut} (hk : PanelBlind k) (o : OpOut) :
    (o.call k).blank = (o.blank.call k).blank := by
  cases o with
  | ok v s => exact (hk s).symm
  | err e s => rfl
  | refuse r => rfl
  | stuck s => rfl
  | fault f => rfl

theorem PanelBlind.call {f k : State → OpOut} (hf : PanelBlind f) (hk : PanelBlind k) :
    PanelBlind fun s => (f s).call k := by
  intro s
  rw [call_blank hk, hf s, ← call_blank hk]

theorem PanelBlind.afterPart {g : State → Except Fault State} {k : State → OpOut}
    (hg : PanelFree g) (hk : PanelBlind k) : PanelBlind fun s => afterPart (g s) k := by
  intro s
  dsimp only
  rw [hg s]
  cases g s with
  | ok t => exact hk t
  | error f => rfl

/-- A test that does not look at the ghost. -/
theorem PanelBlind.ite {c : State → Prop} [∀ s, Decidable (c s)] {f g : State → OpOut}
    (hc : ∀ s, c (blank s) ↔ c s) (hf : PanelBlind f) (hg : PanelBlind g) :
    PanelBlind fun s => if c s then f s else g s := by
  intro s
  by_cases h : c s
  · simpa only [if_pos h, if_pos ((hc s).mpr h)] using hf s
  · simpa only [if_neg h, if_neg (mt (hc s).mp h)] using hg s

theorem convertSend_blank {k : State → OpOut} (hk : PanelBlind k) (o : OpOut) :
    (convertSend o k).blank = (convertSend o.blank k).blank := by
  cases o with
  | ok v s => exact (hk s).symm
  | err e s => cases e <;> rfl
  | refuse r => rfl
  | stuck s => rfl
  | fault f => rfl

theorem afterStep_blank {k : State → OpOut} (hk : PanelBlind k) (o : OpOut) :
    (afterStep o k).blank = (afterStep o.blank k).blank := by
  cases o with
  | ok v s => exact hk.congr rfl
  | err e s => rfl
  | refuse r => rfl
  | stuck s => rfl
  | fault f => rfl

/-! ## The engine and the frame buffer -/

@[simp] theorem readX_blank {α : Type} [Inhabited α] (v : Xv α) (s : State) :
    readX v (blank s) = ((readX v s).1, blank (readX v s).2) := rfl

theorem memRead_blank (a n : Nat) (s : State) :
    memRead a n (blank s) = (memRead a n s).map fun r => (r.1, blank r.2) := by
  unfold memRead
  rw [blank_fb]
  cases s.fb with
  | none => rfl
  | some m => dsimp only; split <;> rfl

theorem memWrite_blank (a : Nat) (v : List Pixel) : PanelFree (memWrite a v) := by
  intro s
  unfold memWrite
  rw [blank_fb]
  cases s.fb with
  | none => rfl
  | some m => dsimp only; split <;> rfl

theorem fetchLine_blank (tc : TimingConfig) (h v : Nat) : PanelFree (fetchLine tc h v) := by
  intro s
  unfold fetchLine
  split
  · cases activeRow tc v with
    | none => rfl
    | some y =>
      dsimp only
      rw [memRead_blank]
      cases memRead (cellIndex tc.hRes 0 y) tc.hRes s <;> rfl
  · rfl

theorem advanceCounters_blank (tc : TimingConfig) (h v : Nat) (s : State) :
    advanceCounters tc h v (blank s) = blank (advanceCounters tc h v s) := by
  unfold advanceCounters nextLine
  split
  · split <;> rfl
  · rfl

theorem pixelClock_blank : PanelFree pixelClock := by
  intro s
  by_cases hp : s.pState = .streaming
  · simp only [pixelClock, blank_pState, hp, blank_tc, blank_hcnt, blank_vcnt, readX_blank,
      fetchLine_blank _ _ _ _]
    cases fetchLine (readX s.tc s).1 _ _ _ with
    | ok t => exact congrArg Except.ok (advanceCounters_blank _ _ _ t)
    | error f => rfl
  · rw [pixelClock_idle hp, pixelClock_idle (s := blank s) hp]; rfl

theorem pixelClocks_blank : ∀ k : Nat, PanelFree (pixelClocks k)
  | 0 => fun _ => rfl
  | k + 1 => by
    intro s
    simp only [pixelClocks, pixelClock_blank s]
    cases pixelClock s with
    | ok t => exact pixelClocks_blank k t
    | error f => rfl

theorem seam_blank : PanelFree seam := by
  intro s
  by_cases hp : s.pState = .streaming
  · simp only [seam, blank_pState, hp]
    exact pixelClocks_blank (drawClocks s).1 (drawClocks s).2
  · rw [seam_idle hp, seam_idle (s := blank s) hp]; rfl

theorem writeRow_blank (w x0 y0 n : Nat) (pixels : List Pixel) (r : Nat) :
    PanelFree (writeRow w x0 y0 n pixels r) := by
  intro s
  simp only [writeRow, memWrite_blank _ _ s]
  cases memWrite (cellIndex w x0 (y0 + r)) (rowOf pixels n r) s <;> rfl

theorem nextRow_blank (rows : List Nat) (s : State) :
    nextRow rows (blank s) = ((nextRow rows s).1, blank (nextRow rows s).2) := by
  unfold nextRow
  split <;> rfl

/-! ## What writes the ghost -/

theorem blank_panelAfterFrame (s : State) : blank (panelAfterFrame s) = blank s := by
  rw [panelAfterFrame_eq]; rfl

theorem blank_panelAtRunStart (s : State) : blank (panelAtRunStart s) = blank s := by
  unfold panelAtRunStart
  split <;> rfl

theorem blank_panelAtRunEnd (s : State) : blank (panelAtRunEnd s) = blank s := by
  unfold panelAtRunEnd
  split <;> rfl

theorem blank_panelAfterResetSequence (P : Params) (h : PinId) (s : State) :
    blank (panelAfterResetSequence P h s) = blank s := by
  rw [panelAfterResetSequence_eq]; rfl

/-! ## The operations -/

theorem okOp_blind (v : Value) : PanelBlind (.ok v) := fun _ => rfl

theorem raise_blind (e : Err) : PanelBlind (raise e) := fun _ => rfl

theorem refuse_blind (r : Refusal) : PanelBlind fun _ => .refuse r := fun _ => rfl

theorem delayOp_blind (t : Ms) : PanelBlind (delayOp t) := fun _ => rfl

theorem openOp_blind (P : Params) (bus : BusId) (clk mode : Nat) (sel : PinId) (depth : Nat) :
    PanelBlind (openOp P bus clk mode sel depth) :=
  .ite (fun _ => .rfl) (raise_blind _) (.ite (fun _ => .rfl) (raise_blind _) fun _ => rfl)

theorem closeOp_blind : PanelBlind closeOp :=
  .ite (fun _ => .rfl) (refuse_blind _) fun _ => rfl

/-- R124, R125: what becomes of a transaction is the environment's; `PRG_STATE`, not the ghost, says
whether a completed frame writes the ghost. -/
theorem transact_blind (P : Params) (u : Unit9) (d : TxDraw) : PanelBlind (transact P u d) := by
  intro s
  unfold transact
  split_ifs
  · cases P.txTimeout <;> rfl
  · rfl
  · simp only [completeTransaction, OpOut.blank, blank_panelAfterFrame]
    rfl

theorem sendOp_blind (P : Params) (u : Unit9) : PanelBlind (sendOp P u) :=
  .ite (fun _ => .rfl) (refuse_blind _)
    (.ite (fun _ => .rfl) (fun _ => rfl)
      fun s => transact_blind P u _ (drawTx (submit u (readX s.tQdepth s).2)).2)

theorem runSteps_blind (P : Params) : ∀ steps : List ProgramStep, PanelBlind (runSteps P steps)
  | [] => okOp_blind .none
  | .send u :: rest => by
    have hrest : PanelBlind fun s => runSteps P rest (advanceProgram s) :=
      (runSteps_blind P rest).comp fun _ => rfl
    intro s
    simp only [runSteps]
    rw [convertSend_blank hrest, sendOp_blind P u s, ← convertSend_blank hrest]
  | .delay t :: rest =>
    (delayOp_blind t).call ((runSteps_blind P rest).comp fun _ => rfl)

theorem runOp_blind (P : Params) : PanelBlind (runOp P) := by
  have hsteps :
      PanelBlind fun s => runSteps P (programSteps P) (panelAtRunStart (startProgram s)) :=
    (runSteps_blind P _).comp fun _ => by simp only [blank_panelAtRunStart]; rfl
  have hend : PanelBlind fun s => .ok .none (panelAtRunEnd (endProgram s)) :=
    (okOp_blind .none).comp fun _ => by simp only [blank_panelAtRunEnd]; rfl
  exact .ite (fun _ => .rfl) (refuse_blind _) (hsteps.call hend)

theorem configureOutputOp_blind (P : Params) (pin : PinId) :
    PanelBlind (configureOutputOp P pin) := by
  refine .ite (fun _ => .rfl) (fun s => ?_)
    (.ite (fun _ => .rfl) (fun _ => rfl) (refuse_blind _))
  rw [blank_role]
  cases s.role <;> rfl

theorem setLevelOp_blind (P : Params) (h : PinId) (l : Level) : PanelBlind (setLevelOp P h l) := by
  refine .ite (fun _ => .rfl) (fun s => ?_)
    (.ite (fun _ => .rfl) (.ite (fun _ => .rfl) (fun _ => rfl) (refuse_blind _)) (refuse_blind _))
  rw [blank_role]
  cases s.role <;> rfl

theorem inSequence_blind : ∀ {fs : List (State → OpOut)}, (∀ f ∈ fs, PanelBlind f) →
    PanelBlind (inSequence fs)
  | [], _ => okOp_blind .none
  | [f], hf => hf f (by simp)
  | f :: g :: rest, hf =>
    (hf f (by simp)).call (.afterPart seam_blank
      (inSequence_blind fun q hq => hf q (List.mem_cons_of_mem _ hq)))

theorem timedResetOp_blind (P : Params) (h : PinId) : PanelBlind (timedResetOp P h) := by
  have hcalls : PanelBlind (inSequence (resetCalls P h)) := inSequence_blind fun f hf => by
    obtain ⟨l, rfl⟩ | ⟨t, rfl⟩ := mem_resetCalls hf
    · exact setLevelOp_blind P h l
    · exact delayOp_blind t
  have hend : PanelBlind fun s => .ok .none (panelAfterResetSequence P h s) :=
    (okOp_blind .none).comp fun _ => by simp only [blank_panelAfterResetSequence]; rfl
  exact hcalls.call hend

theorem pConfigureOp_blind (P : Params) (tc : TimingConfig) (width : Nat) (pl : Placement)
    (pins : List PinId) : PanelBlind (pConfigureOp P tc width pl pins) := by
  refine .ite (fun _ => .rfl) (refuse_blind _) (.ite (fun _ => .rfl) (refuse_blind _) fun s => ?_)
  rw [blank_busOwner]
  cases configProblem P s.busOwner tc width pl pins <;> rfl

theorem pResetOp_blind : PanelBlind pResetOp :=
  .ite (fun _ => .rfl) (refuse_blind _) fun _ => rfl

theorem pInitOp_blind : PanelBlind pInitOp :=
  .ite (fun _ => .rfl) (refuse_blind _) fun _ => rfl

theorem writeRows_blind (w x0 y0 n : Nat) (pixels : List Pixel) :
    ∀ (fuel : Nat) (rows : List Nat), PanelBlind (writeRows w x0 y0 n pixels fuel rows)
  | 0, _ => okOp_blind .none
  | fuel + 1, rows => by
    intro s
    simp only [writeRows, nextRow_blank]
    generalize nextRow rows s = choice
    obtain ⟨_ | ⟨r, _ | ⟨r', rest⟩⟩, t⟩ := choice
    · rfl
    · exact PanelBlind.afterPart (writeRow_blank w x0 y0 n pixels r) (okOp_blind .none) t
    · exact PanelBlind.afterPart (writeRow_blank w x0 y0 n pixels r)
        (.afterPart seam_blank (writeRows_blind w x0 y0 n pixels fuel (r' :: rest))) t

theorem drawRectOp_blind (x0 y0 x1 y1 : Int) (px : List Pixel) :
    PanelBlind (drawRectOp x0 y0 x1 y1 px) := by
  refine .ite (fun _ => .rfl) (refuse_blind _) fun s => ?_
  simp only [blank_tc, readX_blank]
  cases boundsError (readX s.tc s).1.hRes (readX s.tc s).1.vRes x0 y0 x1 y1 px with
  | some info => rfl
  | none => exact writeRows_blind _ _ _ _ _ _ _ _

/-! ## The master sequencer and the instructions -/

theorem bringUpSteps_blind : ∀ {fs : List (State → OpOut)}, (∀ f ∈ fs, PanelBlind f) →
    PanelBlind (bringUpSteps fs)
  | [], _ => okOp_blind .none
  | [f], hf => by
    intro s
    simp only [bringUpSteps]
    rw [afterStep_blank (okOp_blind .none), hf f (by simp) s, ← afterStep_blank (okOp_blind .none)]
  | f :: g :: rest, hf => by
    have hrest : PanelBlind fun s => afterPart (seam s) (bringUpSteps (g :: rest)) :=
      .afterPart seam_blank (bringUpSteps_blind fun q hq => hf q (List.mem_cons_of_mem _ hq))
    intro s
    simp only [bringUpSteps]
    rw [afterStep_blank hrest, hf f (by simp) s, ← afterStep_blank hrest]

theorem bringUpTable_blind (P : Params) : ∀ f ∈ bringUpTable P, PanelBlind f := by
  simp only [bringUpTable, List.forall_mem_cons, List.not_mem_nil, false_imp_iff, implies_true,
    and_true]
  exact ⟨configureOutputOp_blind P _, configureOutputOp_blind P _, setLevelOp_blind P _ _,
    timedResetOp_blind P _, openOp_blind P _ _ _ _ _, runOp_blind P, closeOp_blind,
    pConfigureOp_blind P _ _ _ _, pResetOp_blind, pInitOp_blind, setLevelOp_blind P _ _⟩

theorem bringUpOp_blind (P : Params) : PanelBlind (bringUpOp P) := by
  have hsteps : PanelBlind fun s => bringUpSteps (bringUpTable P) (startBringUp s) :=
    (bringUpSteps_blind (bringUpTable_blind P)).comp fun _ => rfl
  have hend : PanelBlind fun s => .ok .none (endBringUp s) :=
    (okOp_blind .none).comp fun _ => rfl
  exact .ite (fun _ => .rfl) (refuse_blind _) (hsteps.call hend)

theorem opOf_blind : ∀ i : Instr, PanelBlind (opOf i)
  | .encCmd _ | .encData _ | .decUnit _ => okOp_blind _
  | .openBus _ _ _ _ _ => openOp_blind _ _ _ _ _ _
  | .send _ | .cmd _ | .data _ => sendOp_blind _ _
  | .close => closeOp_blind
  | .run => runOp_blind _
  | .delay _ => delayOp_blind _
  | .configureOutput _ => configureOutputOp_blind _ _
  | .setLevel _ _ => setLevelOp_blind _ _ _
  | .timedResetSequence _ => timedResetOp_blind _ _
  | .pConfigure _ _ _ _ => pConfigureOp_blind _ _ _ _ _
  | .pReset => pResetOp_blind
  | .pInit => pInitOp_blind
  | .drawRect _ _ _ _ _ => drawRectOp_blind _ _ _ _ _
  | .bringUp => bringUpOp_blind _

theorem withoutPanel_finish (o : OpOut) :
    withoutPanel (finish o) = withoutPanel (finish o.blank) := by
  cases o <;> rfl

/-- Settles O57: two states that differ in the ghost only are one with the ghost forgotten. -/
theorem panelIsAGhost : Obligations.PanelIsAGhost := by
  intro i s p
  have hsame : (opOf i { s with panel := p }).blank = (opOf i s).blank := (opOf_blind i).congr rfl
  rw [exec_eq, exec_eq, withoutPanel_finish, hsame, ← withoutPanel_finish]

end Sys2Proof.Machine

/-! The invariant of the machine: its parts, which an operation other than `BRING_UP` keeps
whatever the master sequencer holds, and the master sequencer's own part. -/

namespace Sys2Proof.Machine

/-! ## The parts of the invariant -/

/-- R22, R24, R50: the register program sequencer and the ghost. -/
structure ProgramInv (P : Params) (s : State) : Prop where
  pcRange : s.prgPc ≤ programLen P
  pcDone  : s.prgState = .done → s.prgPc = programLen P
  program : s.prgState = .running → s.thread = .stuck
  panel   : s.panel = .programming → s.thread = .stuck

/-- R23, R25: the master sequencer. -/
structure MasterInv (s : State) : Prop where
  stepRange : s.buStep ≤ 11
  ready     : s.buState = .ready → s.buStep = 11
  failed    : s.buState = .failed ↔ s.buErr ≠ none
  bringUp   : s.buState = .running → s.thread = .stuck

/-- The invariant without single ownership and without the master sequencer. -/
structure PartsInv (P : Params) (s : State) : Prop where
  transport : TransportInv s
  parallel  : ParallelInv P s
  program   : ProgramInv P s

/-- The invariant without single ownership. -/
structure BodyInv (P : Params) (s : State) : Prop where
  parts  : PartsInv P s
  master : MasterInv s

theorem inv_iff {P : Params} {s : State} : Inv P s ↔ OwnershipInv s ∧ BodyInv P s := by
  constructor
  · rintro ⟨ho, ht, hp, ⟨hpc, hdone, hstep, hready, hfailed, hprog, hbring, hpanel⟩⟩
    exact ⟨ho, ⟨ht, hp, hpc, hdone, hprog, hpanel⟩, hstep, hready, hfailed, hbring⟩
  · rintro ⟨ho, ⟨ht, hp, hpc, hdone, hprog, hpanel⟩, hstep, hready, hfailed, hbring⟩
    exact ⟨ho, ht, hp, hpc, hdone, hstep, hready, hfailed, hprog, hbring, hpanel⟩

/-! ## The fields the parts speak of -/

theorem TransportInv.of_eq {s t : State} (hs : TransportInv s) (hopen : t.tState = s.tState)
    (hdepth : t.tQdepth = s.tQdepth) (hout : t.tOutstanding = s.tOutstanding)
    (hthread : t.thread = s.thread) : TransportInv t := by
  constructor
  · rw [hopen, hdepth]; exact hs.depthLatched
  · rw [hdepth, hout]; exact hs.bounded
  · rw [hthread, hout]; exact hs.idle

/-- R29, R30: a latched depth and an empty queue. -/
theorem TransportInv.of_empty {s : State} {d : Nat} (hdepth : s.tQdepth = .val d)
    (hout : s.tOutstanding = 0) : TransportInv s where
  depthLatched _ := ⟨d, hdepth⟩
  bounded _ _ := by rw [hout]; exact Nat.zero_le _
  idle _ := hout

/-- R30: the transaction in flight of a stuck thread fits the queue. -/
theorem TransportInv.of_hung {s t : State} (hs : TransportInv s)
    (hroom : ∀ d, s.tQdepth = .val d → s.tOutstanding < d) (hopen : t.tState = s.tState)
    (hdepth : t.tQdepth = s.tQdepth) (hout : t.tOutstanding = s.tOutstanding + 1)
    (hthread : t.thread = .stuck) : TransportInv t := by
  constructor
  · rw [hopen, hdepth]; exact hs.depthLatched
  · rw [hdepth, hout]; exact hroom
  · rw [hthread]; nofun

/-- A change of the ghost is free but for the value that only a `RUN` in progress leaves. -/
theorem ProgramInv.of_eq {P : Params} {s t : State} (hs : ProgramInv P s)
    (hpc : t.prgPc = s.prgPc) (hstate : t.prgState = s.prgState) (hthread : t.thread = s.thread)
    (hpanel : t.panel = .programming → s.panel = .programming) : ProgramInv P t := by
  constructor
  · rw [hpc]; exact hs.pcRange
  · rw [hpc, hstate]; exact hs.pcDone
  · rw [hstate, hthread]; exact hs.program
  · rw [hthread]; exact fun h => hs.panel (hpanel h)

/-- R172, R173: the interface moves from one configured state to the next; its configuration, its
buffer and its line buffer stay. -/
theorem ParallelInv.advance {P : Params} {s : State} (hs : ParallelInv P s)
    (hconf : s.pState ≠ .unconfigured)
    (p : PState) (h v : Xv Nat) (tr : List Event) (hp : p ≠ .unconfigured)
    (hunknown : p = .configured → h = .x ∧ v = .x)
    (hzeroed : p = .resetDone → h = .val 0 ∧ v = .val 0)
    (hcount : p = .streaming → h = .val 0 ∧ v = .val 0) :
    ParallelInv P { s with pState := p, hcnt := h, vcnt := v, trace := tr } := by
  obtain ⟨tc, mem, hc⟩ := hs.configured hconf
  refine ⟨fun hu => absurd hu hp, fun _ => ⟨tc, mem, ?_⟩, hunknown, hzeroed, fun hst => ?_⟩
  · exact ⟨hc.timing, hc.width, hc.align, hc.pinmap, hc.placement, hc.inRange, hc.clock, hc.buffer,
      hc.size, hc.canonical, hc.line⟩
  · obtain ⟨hh, hv⟩ := hcount hst
    exact ⟨tc, 0, 0, hc.timing, hh, hv, id, id⟩

/-- The fields of the transport, the interface and the program sequencer that the invariant speaks
of, all but the ghost. -/
def partsView (s : State) : (TState × Xv Nat × Nat × Thread) × (Nat × PrgState) ×
    PState × Xv TimingConfig × Xv Nat × Xv Placement × Xv (List PinId) × Xv Nat ×
    Option Memory × Xv Nat × Xv Nat × Xv (List Pixel) :=
  ((s.tState, s.tQdepth, s.tOutstanding, s.thread), (s.prgPc, s.prgState),
    s.pState, s.tc, s.pWidth, s.pPlacement, s.pPinmap, s.pAlign, s.fb, s.hcnt, s.vcnt, s.linebuf)

theorem PartsInv.of_view {P : Params} {s t : State} (hs : PartsInv P s)
    (hview : partsView t = partsView s) (hpanel : t.panel = .programming → s.panel = .programming) :
    PartsInv P t := by
  simp only [partsView, Prod.mk.injEq] at hview
  obtain ⟨⟨hopen, hdepth, hout, hthread⟩, ⟨hpc, hstate⟩, hp, htc, hw, hpl, hpin, hal, hfb, hh, hv,
    hl⟩ := hview
  exact ⟨hs.transport.of_eq hopen hdepth hout hthread,
    hs.parallel.of_eq hp htc hw hpl hpin hal hfb hh hv hl,
    hs.program.of_eq hpc hstate hthread hpanel⟩

/-- The engine and a copy-in, where the interface's own invariant is known after them. -/
theorem PartsInv.of_frame {P : Params} {s t : State} {h v : Xv Nat} {l : Xv (List Pixel)}
    {tr : List Event} {d : Draws} {fb : Option Memory} (hs : PartsInv P s) (hp : ParallelInv P t)
    (hframe : t = withEngine h v l tr d { s with fb := fb }) : PartsInv P t := by
  subst hframe
  exact ⟨hs.transport.of_eq rfl rfl rfl rfl, hp, hs.program.of_eq rfl rfl rfl id⟩

/-- What the master sequencer holds. -/
def masterView (s : State) : Nat × BuState × Option Err := (s.buStep, s.buState, s.buErr)

/-- A master sequencer that does not run stays in order; one of a stuck thread may run. -/
theorem MasterInv.of_view {s t : State} (hs : MasterInv s) (hview : masterView t = masterView s)
    (hthread : s.thread = .stuck → t.thread = .stuck) : MasterInv t := by
  simp only [masterView, Prod.mk.injEq] at hview
  obtain ⟨hstep, hstate, herr⟩ := hview
  constructor
  · rw [hstep]; exact hs.stepRange
  · rw [hstep, hstate]; exact hs.ready
  · rw [hstate, herr]; exact hs.failed
  · rw [hstate]; exact fun h => hthread (hs.bringUp h)

theorem MasterInv.of_master {s : State} {k : Nat} {b : BuState} {e : Option Err}
    (hview : masterView s = (k, b, e)) (hrange : k ≤ 11) (hready : b = .ready → k = 11)
    (hfailed : b = .failed ↔ e ≠ none) (hthread : b = .running → s.thread = .stuck) :
    MasterInv s := by
  simp only [masterView, Prod.mk.injEq] at hview
  obtain ⟨rfl, rfl, rfl⟩ := hview
  exact ⟨hrange, hready, hfailed, hthread⟩

/-! ## Inside an operation -/

/-- A state between the thread's events, with the master sequencer at `m`. -/
structure Running (P : Params) (m : Nat × BuState × Option Err) (s : State) : Prop where
  parts  : PartsInv P s
  thread : s.thread = .running
  master : masterView s = m

/-- A state in which an operation is stuck, with the master sequencer at `m`. -/
structure Hung (P : Params) (m : Nat × BuState × Option Err) (s : State) : Prop where
  parts  : PartsInv P { s with thread := .stuck }
  master : masterView s = m

/-- However the operation ends, it keeps the parts of the invariant, leaves the master sequencer
alone, and does not fault. -/
def KeepsParts (P : Params) (f : State → OpOut) : Prop :=
  ∀ m s, Running P m s → (f s).Leaves (Running P m) (Hung P m) False

section Running

variable {P : Params} {m : Nat × BuState × Option Err} {s t : State}

theorem Running.of_view (h : Running P m s) (hview : partsView t = partsView s)
    (hpanel : t.panel = .programming → s.panel = .programming)
    (hmaster : masterView t = masterView s) : Running P m t where
  parts := h.parts.of_view hview hpanel
  thread := by
    have hthread : t.thread = s.thread := congrArg (fun v => v.1.2.2.2) hview
    rw [hthread, h.thread]
  master := hmaster.trans h.master

theorem Running.of_frame {h v : Xv Nat} {l : Xv (List Pixel)} {tr : List Event} {d : Draws}
    {fb : Option Memory} (hs : Running P m s) (hp : ParallelInv P t)
    (hframe : t = withEngine h v l tr d { s with fb := fb }) : Running P m t where
  parts := hs.parts.of_frame hp hframe
  thread := by rw [hframe]; exact hs.thread
  master := by rw [hframe]; exact hs.master

/-- A seam succeeds and keeps the parts. -/
theorem Running.seam (h : Running P m s) : ∃ t, seam s = .ok t ∧ Running P m t := by
  obtain ⟨t, hseam, hp, hengine⟩ := seam_keeps h.parts.parallel
  exact ⟨t, hseam, h.of_frame hp hengine.frame⟩

theorem Running.of_seam (h : Running P m s) (hseam : Machine.seam s = .ok t) : Running P m t := by
  obtain ⟨u, hu, hrun⟩ := h.seam
  rw [hseam] at hu
  cases hu
  exact hrun

theorem Running.seam_ne_error (h : Running P m s) (f : Fault) : Machine.seam s ≠ .error f := by
  obtain ⟨u, hu, -⟩ := h.seam
  rw [hu]
  nofun

end Running

/-! ## The operations but `BRING_UP` -/

section Ops

variable (P : Params)

theorem okOp_keeps (v : Value) : KeepsParts P (.ok v) := fun _ _ h => h

theorem delayOp_keeps (t : Ms) : KeepsParts P (delayOp t) := fun _ _ h => h.of_view rfl id rfl

theorem openOp_keeps (bus : BusId) (clk mode : Nat) (sel : PinId) (depth : Nat) :
    KeepsParts P (openOp P bus clk mode sel depth) := by
  intro m s h
  refine (openOp_ends P bus clk mode sel depth s).mono ?_ ?_ (fun _ => False.elim)
    (fun _ => False.elim) fun _ => id
  · rintro v t ⟨-, -, -, rfl⟩
    exact ⟨⟨.of_empty rfl rfl, h.parts.parallel.of_eq rfl rfl rfl rfl rfl rfl rfl rfl rfl rfl,
      h.parts.program.of_eq rfl rfl rfl id⟩, h.thread, h.master⟩
  · rintro e t ⟨-, rfl⟩
    exact h

theorem closeOp_keeps : KeepsParts P closeOp := by
  intro m s h
  refine (closeOp_ends s).mono ?_ (fun _ _ => False.elim) (fun _ => False.elim)
    (fun _ _ => trivial) fun _ => id
  rintro v t ⟨-, -, rfl⟩
  exact ⟨⟨⟨nofun, h.parts.transport.bounded, h.parts.transport.idle⟩,
    h.parts.parallel.of_eq rfl rfl rfl rfl rfl rfl rfl rfl rfl rfl,
    h.parts.program.of_eq rfl rfl rfl id⟩, h.thread, h.master⟩

theorem sendOp_keeps (u : Unit9) : KeepsParts P (sendOp P u) := by
  intro m s h
  refine (sendOp_ends P u s).mono ?_ ?_ ?_ (fun _ _ => trivial) fun _ => id
  · rintro v t ⟨-, -, ht⟩
    rw [ht]
    refine h.of_view rfl ?_ rfl
    dsimp only
    split
    · exact id
    · nofun
  · rintro e t ⟨-, ⟨-, ht⟩ | ⟨cause, -, -, ht⟩⟩
    · rw [ht]; exact h.of_view rfl id rfl
    · rw [ht]; exact h.of_view rfl nofun rfl
  · rintro t ⟨-, -, hroom, ht⟩
    rw [ht]
    have program := h.parts.program
    exact ⟨⟨h.parts.transport.of_hung hroom rfl rfl rfl rfl,
      h.parts.parallel.of_eq rfl rfl rfl rfl rfl rfl rfl rfl rfl rfl,
      program.pcRange, program.pcDone, fun _ => rfl, fun _ => rfl⟩, h.master⟩

/-- R22: the index of a step of the program is below the program's length. -/
theorem lt_programLen {k : Nat} {x : ProgramStep} (h : (programSteps P)[k]? = some x) :
    k < programLen P := (List.getElem?_eq_some_iff.mp h).1

theorem runOp_keeps : KeepsParts P (runOp P) := by
  intro m s h
  refine (runOp_ends P s).mono ?_ ?_ ?_ (fun _ _ => trivial) fun _ => id
  · rintro v t ⟨-, -, ht⟩
    rw [ht]
    refine ⟨⟨h.parts.transport.of_eq rfl rfl rfl rfl,
      h.parts.parallel.of_eq rfl rfl rfl rfl rfl rfl rfl rfl rfl rfl,
      Nat.le_refl _, fun _ => rfl, nofun, ?_⟩, h.thread, h.master⟩
    dsimp only
    split <;> nofun
  · rintro e t ⟨-, k, cause, u, -, hk, ht⟩
    rw [ht]
    exact ⟨⟨h.parts.transport.of_eq rfl rfl rfl rfl,
      h.parts.parallel.of_eq rfl rfl rfl rfl rfl rfl rfl rfl rfl rfl,
      Nat.le_of_lt (lt_programLen P hk), nofun, nofun, nofun⟩, h.thread, h.master⟩
  · rintro t ⟨-, -, k, u, hk, hroom, ht⟩
    rw [ht]
    exact ⟨⟨h.parts.transport.of_hung hroom rfl rfl rfl rfl,
      h.parts.parallel.of_eq rfl rfl rfl rfl rfl rfl rfl rfl rfl rfl,
      Nat.le_of_lt (lt_programLen P hk), nofun, fun _ => rfl, fun _ => rfl⟩, h.master⟩

theorem configureOutputOp_keeps (pin : PinId) : KeepsParts P (configureOutputOp P pin) := by
  intro m s h
  refine (configureOutputOp_ends P pin s).mono ?_ ?_ (fun _ => False.elim) (fun _ _ => trivial)
    fun _ => id
  · rintro v t ⟨-, ⟨-, -, rfl⟩ | ⟨-, -, rfl⟩ | ⟨-, -, rfl⟩⟩
    · exact h.of_view rfl id rfl
    · exact h
    · exact h.of_view rfl id rfl
  · rintro e t ⟨-, -, -, rfl⟩
    exact h

theorem setLevelOp_keeps (pin : PinId) (l : Level) : KeepsParts P (setLevelOp P pin l) := by
  intro m s h
  refine (setLevelOp_ends P pin l s).mono ?_ ?_ (fun _ => False.elim) (fun _ _ => trivial)
    fun _ => id
  · rintro v t ⟨-, ⟨-, -, rfl⟩ | ⟨-, -, -, rfl⟩⟩
    · exact h.of_view rfl nofun rfl
    · exact h.of_view rfl id rfl
  · rintro e t ⟨-, -, -, rfl⟩
    exact h

theorem timedResetOp_keeps (pin : PinId) : KeepsParts P (timedResetOp P pin) := by
  intro m s h
  have hcalls : ∀ f ∈ resetCalls P pin, ∀ s, Running P m s →
      (f s).Leaves (Running P m) (Hung P m) False := by
    intro f hf
    obtain ⟨l, rfl⟩ | ⟨d, rfl⟩ := mem_resetCalls hf
    · exact setLevelOp_keeps P pin l m
    · exact delayOp_keeps P d m
  refine (inSequence_leaves (fun _ _ hs => hs.of_seam) (fun _ f hs => hs.seam_ne_error f) _ hcalls
    s h).call fun t ht => ?_
  rw [panelAfterResetSequence_eq]
  refine ht.of_view rfl ?_ rfl
  dsimp only
  split
  · nofun
  · exact id

/-- R167, R168: the latched configuration has passed the checks, and the new buffer has no cell
that holds a pixel. -/
theorem pConfigureOp_keeps (tc : TimingConfig) (width : Nat) (pl : Placement) (pins : List PinId) :
    KeepsParts P (pConfigureOp P tc width pl pins) := by
  intro m s h
  refine (pConfigureOp_ends P tc width pl pins s).mono ?_ ?_ (fun _ => False.elim)
    (fun _ _ => trivial) fun _ => id
  · rintro v t ⟨-, hlen, -, -, -, hpins, hrange, hcap, hclock, rfl⟩
    refine ⟨⟨h.parts.transport.of_eq rfl rfl rfl rfl, ?_, h.parts.program.of_eq rfl rfl rfl id⟩,
      h.thread, h.master⟩
    refine ⟨nofun, fun _ => ⟨tc, Memory.create (tc.hRes * tc.vRes), ?_⟩, fun _ => ⟨rfl, rfl⟩, nofun,
      nofun⟩
    exact ⟨rfl, rfl, rfl, ⟨pins, rfl, hlen, hpins⟩, ⟨pl, rfl, hcap⟩, hrange, hclock, rfl, rfl,
      create_wf _, nofun⟩
  · rintro e t ⟨-, rfl⟩
    exact h

theorem pResetOp_keeps : KeepsParts P pResetOp := by
  intro m s h
  refine (pResetOp_ends s).mono ?_ (fun _ _ => False.elim) (fun _ => False.elim)
    (fun _ _ => trivial) fun _ => id
  rintro v t ⟨-, hconf, rfl⟩
  exact ⟨⟨h.parts.transport.of_eq rfl rfl rfl rfl,
    h.parts.parallel.advance (by rw [hconf]; decide) .resetDone (.val 0) (.val 0) _ (by decide)
      nofun (fun _ => ⟨rfl, rfl⟩) nofun,
    h.parts.program.of_eq rfl rfl rfl id⟩, h.thread, h.master⟩

theorem pInitOp_keeps : KeepsParts P pInitOp := by
  intro m s h
  refine (pInitOp_ends s).mono ?_ (fun _ _ => False.elim) (fun _ => False.elim)
    (fun _ _ => trivial) fun _ => id
  rintro v t ⟨-, hreset, rfl⟩
  exact ⟨⟨h.parts.transport.of_eq rfl rfl rfl rfl,
    h.parts.parallel.advance (by rw [hreset]; decide) .streaming s.hcnt s.vcnt _ (by decide)
      nofun nofun (fun _ => h.parts.parallel.zeroed hreset),
    h.parts.program.of_eq rfl rfl rfl id⟩, h.thread, h.master⟩

theorem drawRectOp_keeps (x0 y0 x1 y1 : Int) (px : List Pixel) :
    KeepsParts P (drawRectOp x0 y0 x1 y1 px) := by
  intro m s h
  by_cases hconf : s.pState = .unconfigured
  · rw [drawRectOp_unconfigured x0 y0 x1 y1 px hconf]
    trivial
  · obtain ⟨tc, mem, hc⟩ := h.parts.parallel.configured hconf
    refine (drawRectOp_ends x0 y0 x1 y1 px h.parts.parallel hconf hc.timing).mono ?_ ?_
      (fun _ => False.elim) (fun _ => False.elim) fun _ => id
    · rintro v t ⟨-, -, hcopied⟩
      obtain ⟨order, -, hevents⟩ := hcopied.order
      exact h.of_frame hcopied.inv hevents.frame
    · rintro e t ⟨-, rfl⟩
      exact h

/-! ## `BRING_UP` -/

theorem bringUpTable_keeps : ∀ f ∈ bringUpTable P, KeepsParts P f := by
  simp only [bringUpTable, List.forall_mem_cons, List.not_mem_nil, false_imp_iff, implies_true,
    and_true]
  exact ⟨configureOutputOp_keeps P _, configureOutputOp_keeps P _, setLevelOp_keeps P _ _,
    timedResetOp_keeps P _, openOp_keeps P _ _ _ _ _, runOp_keeps P, closeOp_keeps P,
    pConfigureOp_keeps P _ _ _ _, pResetOp_keeps P, pInitOp_keeps P, setLevelOp_keeps P _ _⟩

end Ops

section BringUp

variable {P : Params} {k : Nat} {b : BuState} {e : Option Err} {s : State}

theorem Running.advanceBringUp (h : Running P (k, b, e) s) :
    Running P (k + 1, b, e) (advanceBringUp s) := by
  have hmaster := h.master
  simp only [masterView, Prod.mk.injEq] at hmaster
  obtain ⟨hk, hb, he⟩ := hmaster
  exact ⟨h.parts.of_view rfl id, h.thread, by simp [masterView, hk, hb, he]⟩

theorem Running.failBringUp (h : Running P (k, b, e) s) (x : Err) :
    Running P (k, .failed, some x) (failBringUp x s) := by
  have hk : s.buStep = k := congrArg Prod.fst h.master
  exact ⟨h.parts.of_view rfl id, h.thread, by simp [masterView, hk]⟩

theorem Running.endBringUp (h : Running P (k, b, e) s) :
    Running P (k, .ready, e) (endBringUp s) := by
  have hmaster := h.master
  simp only [masterView, Prod.mk.injEq] at hmaster
  obtain ⟨hk, -, he⟩ := hmaster
  exact ⟨h.parts.of_view rfl id, h.thread, by simp [masterView, hk, he]⟩

/-- R190, R23: from `BU_STEP = k` on, the steps that are left count up to the last one, and an end
before that leaves the count at the step that ended. -/
theorem bringUpSteps_counts : ∀ (fs : List (State → OpOut)) (k : Nat) (s : State),
    (∀ f ∈ fs, KeepsParts P f) → Running P (k, b, e) s →
    (bringUpSteps fs s).Ends
      (fun _ => Running P (k + fs.length, b, e))
      (fun x t => ∃ j ≤ k + fs.length, Running P (j, .failed, some x) t)
      (fun t => ∃ j ≤ k + fs.length, Hung P (j, b, e) t)
      (fun _ => True) (fun _ => False)
  | [], _, _, _, h => h
  | [f], k, s, hf, h => by
    rw [bringUpSteps]
    exact afterStep_ends (hf f (by simp) _ s h) (fun _ _ ht => ht.advanceBringUp)
      (fun x _ ht => ⟨k, by omega, ht.failBringUp x⟩) (fun _ ht => ⟨k, by omega, ht⟩)
      (fun _ => id) fun _ => id
  | f :: g :: rest, k, s, hf, h => by
    rw [bringUpSteps]
    refine afterStep_ends (hf f (by simp) _ s h) (fun _ t ht => ?_)
      (fun x _ ht => ⟨k, by omega, ht.failBringUp x⟩) (fun _ ht => ⟨k, by omega, ht⟩)
      (fun _ => id) fun _ => id
    obtain ⟨u, hseam, hu⟩ := ht.advanceBringUp.seam
    have hlen : k + 1 + (g :: rest).length = k + (f :: g :: rest).length := by
      simp only [List.length_cons]; omega
    rw [hseam, ← hlen]
    exact bringUpSteps_counts (g :: rest) (k + 1) u
      (fun q hq => hf q (List.mem_cons_of_mem _ hq)) hu

/-- R190: every end of `BRING_UP` leaves its latches as R23 and R25 say. -/
theorem bringUpOp_keeps (h : Running P (masterView s) s) (hmaster : MasterInv s) :
    (bringUpOp P s).Leaves (BodyInv P) (fun t => BodyInv P { t with thread := .stuck }) False := by
  unfold bringUpOp
  split
  · trivial
  · next hidle =>
    have hidle : s.buState = .idle := not_not.mp hidle
    have herr : s.buErr = none := by
      have := hmaster.failed
      simpa [hidle] using this
    have hstart : Running P (0, .running, none) (startBringUp s) :=
      ⟨h.parts.of_view rfl id, h.thread, by simp [masterView, herr]⟩
    have hsteps := bringUpSteps_counts (bringUpTable P) 0 _ (bringUpTable_keeps P) hstart
    rw [show 0 + (bringUpTable P).length = 11 from rfl] at hsteps
    generalize bringUpSteps (bringUpTable P) (startBringUp s) = o at hsteps
    cases o with
    | ok v t =>
      obtain ⟨hparts, -, hm⟩ := Running.endBringUp hsteps
      exact ⟨hparts, .of_master hm (Nat.le_refl _) (fun _ => rfl) (by simp) nofun⟩
    | err x t =>
      obtain ⟨j, hj, hparts, -, hm⟩ := hsteps
      exact ⟨hparts, .of_master hm hj nofun (by simp) nofun⟩
    | stuck t =>
      obtain ⟨j, hj, hparts, hm⟩ := hsteps
      exact ⟨hparts, .of_master hm hj nofun (by simp) fun _ => rfl⟩
    | refuse r => trivial
    | fault f => exact hsteps

end BringUp

/-! ## The step -/

section Step

variable {P : Params} {s t : State}

/-- An operation that leaves the master sequencer alone keeps the whole. -/
theorem KeepsParts.keeps_body {f : State → OpOut} (hf : KeepsParts P f)
    (h : Running P (masterView s) s) (hmaster : MasterInv s) :
    (f s).Leaves (BodyInv P) (fun t => BodyInv P { t with thread := .stuck }) False := by
  have hkept : ∀ t, Running P (masterView s) t → BodyInv P t := fun t ht =>
    ⟨ht.parts, hmaster.of_view ht.master fun hs => by rw [h.thread] at hs; cases hs⟩
  exact (hf _ s h).mono (fun _ => hkept) (fun _ => hkept)
    (fun t ht => ⟨ht.parts, hmaster.of_view ht.master fun _ => rfl⟩) (fun _ => id) fun _ => id

/-- Every instruction of the hardware keeps the invariant's body. -/
theorem opOf_keeps_body (i : Instr) (h : Running Config.params (masterView s) s)
    (hmaster : MasterInv s) : (opOf i s).Leaves (BodyInv Config.params)
      (fun t => BodyInv Config.params { t with thread := .stuck }) False :=
  match i with
  | .encCmd _ | .encData _ | .decUnit _ => (okOp_keeps _ _).keeps_body h hmaster
  | .openBus _ _ _ _ _ => (openOp_keeps _ _ _ _ _ _).keeps_body h hmaster
  | .send _ | .cmd _ | .data _ => (sendOp_keeps _ _).keeps_body h hmaster
  | .close => (closeOp_keeps _).keeps_body h hmaster
  | .run => (runOp_keeps _).keeps_body h hmaster
  | .delay _ => (delayOp_keeps _ _).keeps_body h hmaster
  | .configureOutput _ => (configureOutputOp_keeps _ _).keeps_body h hmaster
  | .setLevel _ _ => (setLevelOp_keeps _ _ _).keeps_body h hmaster
  | .timedResetSequence _ => (timedResetOp_keeps _ _).keeps_body h hmaster
  | .pConfigure _ _ _ _ => (pConfigureOp_keeps _ _ _ _ _).keeps_body h hmaster
  | .pReset => (pResetOp_keeps _).keeps_body h hmaster
  | .pInit => (pInitOp_keeps _).keeps_body h hmaster
  | .drawRect _ _ _ _ _ => (drawRectOp_keeps _ _ _ _ _ _).keeps_body h hmaster
  | .bringUp => bringUpOp_keeps h hmaster

/-- A pixel clock of the engine alone keeps the invariant's body, the thread stuck or not. -/
theorem BodyInv.of_pixelClock (h : BodyInv P s) (hclock : pixelClock s = .ok t) : BodyInv P t := by
  obtain ⟨u, hu, hp⟩ := pixelClock_keeps h.parts.parallel
  rw [hclock] at hu
  cases hu
  have hframe := (pixelClock_engine hclock).frame
  refine ⟨h.parts.of_frame hp hframe, h.master.of_view ?_ ?_⟩
  · rw [hframe]; rfl
  · rw [hframe]; exact id

/-- The result that an operation returns is no part of the invariant. -/
theorem BodyInv.set_result (h : BodyInv P s) (r : Result) : BodyInv P { s with result := some r } :=
  ⟨h.parts.of_view rfl id, h.master.of_view rfl id⟩

end Step

/-- The body of the invariant is kept by a step: the engine's, or a seam and an instruction. -/
theorem step_keeps_body {s t : State} (h : BodyInv Config.params s) (hstep : step s = .next t) :
    BodyInv Config.params t := by
  obtain ⟨-, hclock⟩ | ⟨c, rest, i, u, hrun, -, -, hseam, hop⟩ := step_cases hstep
  · exact h.of_pixelClock hclock
  · have hfetched : Running Config.params (masterView s) { s with program := rest } :=
      ⟨h.parts.of_view rfl id, hrun, rfl⟩
    have hissued : Running Config.params (masterView s) u := hfetched.of_seam hseam
    have hmaster : MasterInv u :=
      h.master.of_view hissued.master fun hs => by rw [hrun] at hs; cases hs
    rw [← hissued.master] at hissued
    exact (opOf_keeps_body i hissued hmaster).finish hop (fun _ r hu => hu.set_result r) fun _ => id

/-- Settles O52: single ownership goes onward with every operation, the rest is the body. -/
theorem stepKeepsInvariant : Obligations.StepKeepsInvariant := by
  intro s t hinv hstep
  obtain ⟨howned, hbody⟩ := inv_iff.mp hinv
  exact inv_iff.mpr ⟨(step_onward hstep).ownership howned, step_keeps_body hbody hstep⟩

end Sys2Proof.Machine

/-! The family 20_memory.md: the pixel fields, the frame buffer's primitives and its writers, what
a fetched line shows of a rectangle, the data lines, and that no step of a machine with the
invariant faults. -/

namespace Sys2Proof.Machine

/-! ## The step, by what the thread has to do (R77, R94) -/

section Fetched

variable {s : State}

theorem step_of_program_nil (hrun : s.thread = .running) (hprog : s.program = []) :
    step s = idleStep s := by
  simp only [step, hrun, fetch, hprog]

variable {c : CodeWord} {rest : List CodeWord}

theorem step_of_undecodable {e : DecodeError} (hrun : s.thread = .running)
    (hprog : s.program = c :: rest) (hdec : decode c = .error e) :
    step s = .refused (.undecodable e) := by
  simp only [step, hrun, fetch, hprog, hdec]

theorem step_of_decoded {i : Instr} (hrun : s.thread = .running) (hprog : s.program = c :: rest)
    (hdec : decode c = .ok i) : step s = issue (exec i) { s with program := rest } := by
  simp only [step, hrun, fetch, hprog, hdec]

end Fetched

theorem issue_of_seam {run : State → Host.Outcome State Fault Refusal} {s t : State}
    (h : seam s = .ok t) : issue run s = run t := by
  simp only [issue, h]

/-- The operations that are still to come are no part of the interface's invariant. -/
theorem ParallelInv.set_program {P : Params} {s : State} (h : ParallelInv P s)
    (rest : List CodeWord) : ParallelInv P { s with program := rest } :=
  h.of_eq rfl rfl rfl rfl rfl rfl rfl rfl rfl rfl

/-- Settles O7: the seam before the operation is nothing without streaming, and leads to a state
where the interface's invariant holds. -/
theorem stepRunsDecodedInstruction : Obligations.StepRunsDecodedInstruction := by
  intro s c rest i hrun hprog hdec
  have hstep := step_of_decoded hrun hprog hdec
  refine ⟨hstep, fun hidle => ?_, fun P hinv => ?_⟩
  · exact hstep.trans (issue_of_seam (seam_idle hidle))
  · obtain ⟨u, hseam, -⟩ := seam_keeps (hinv.set_program rest)
    exact ⟨u, hseam, hstep.trans (issue_of_seam hseam)⟩

theorem decode_of_decodeTableWord {nbits w : Nat} {i : Instr}
    (h : decodeTableWord nbits w = some i) : decode (tableWord nbits w) = .ok i := by
  unfold decodeTableWord at h
  split at h
  · next hdec => cases h; exact hdec
  · cases h

/-- Settles O8: the loaded word stands first and the thread runs. -/
theorem tableWordRunsNext : Obligations.TableWordRunsNext := fun _ _ _ _ h =>
  step_of_decoded rfl rfl (decode_of_decodeTableWord h)

/-! ## No machine fault (R62, R180, R183) -/

theorem idleStep_ne_fault {P : Params} {s : State} (h : ParallelInv P s) (f : Fault) :
    idleStep s ≠ .fault f := by
  obtain ⟨t, hclock, -⟩ := pixelClock_keeps h
  rw [idleStep_of_pixelClock hclock]
  nofun

/-- From the invariant's body, the seam before an operation leads to a state between the thread's
events with the master sequencer in order. -/
theorem BodyInv.issued {P : Params} {s : State} (h : BodyInv P s) (hrun : s.thread = .running)
    (rest : List CodeWord) : ∃ u, seam { s with program := rest } = .ok u ∧
      Running P (masterView u) u ∧ MasterInv u := by
  have hfetched : Running P (masterView s) { s with program := rest } :=
    ⟨h.parts.of_view rfl id, hrun, rfl⟩
  obtain ⟨u, hseam, hu⟩ := hfetched.seam
  refine ⟨u, hseam, ⟨hu.parts, hu.thread, rfl⟩, h.master.of_view hu.master fun hstuck => ?_⟩
  rw [hrun] at hstuck
  cases hstuck

theorem exec_ne_fault {s : State} (i : Instr) (h : Running Config.params (masterView s) s)
    (hmaster : MasterInv s) (f : Fault) : exec i s ≠ .fault f := by
  rw [exec_eq]
  intro hfault
  have hends := opOf_keeps_body i h hmaster
  rw [finish_fault hfault] at hends
  exact hends

/-- Settles O53: neither the engine's clock nor an operation after its seam faults where the body
of the invariant holds; a word that does not decode is refused. -/
theorem stepNeverFaults : Obligations.StepNeverFaults := by
  intro s f hinv
  obtain ⟨-, hbody⟩ := inv_iff.mp hinv
  have hidle := idleStep_ne_fault hinv.parallel f
  cases hrun : s.thread with
  | stuck => rw [step_of_stuck hrun]; exact hidle
  | running =>
    cases hprog : s.program with
    | nil => rw [step_of_program_nil hrun hprog]; exact hidle
    | cons c rest =>
      cases hdec : decode c with
      | error e => rw [step_of_undecodable hrun hprog hdec]; nofun
      | ok i =>
        obtain ⟨u, hseam, hu, hmaster⟩ := hbody.issued hrun rest
        rw [step_of_decoded hrun hprog hdec, issue_of_seam hseam]
        exact exec_ne_fault i hu hmaster f

/-! ## Pixels (R66) -/

theorem red_toNat (p : Pixel) : (red p).toNat = p.toNat / 2048 % 32 := by
  simp [red, BitVec.extractLsb'_toNat, Nat.shiftRight_eq_div_pow]

theorem green_toNat (p : Pixel) : (green p).toNat = p.toNat / 32 % 64 := by
  simp [green, BitVec.extractLsb'_toNat, Nat.shiftRight_eq_div_pow]

theorem blue_toNat (p : Pixel) : (blue p).toNat = p.toNat % 32 := by
  simp [blue, BitVec.extractLsb'_toNat]

/-- Settles O41: the three fields are the digits of the pixel's value in a mixed radix. -/
theorem pixelFields : Obligations.PixelFields := by
  refine ⟨fun p => ?_, rfl, rfl, rfl⟩
  have hlt : p.toNat < 65536 := p.isLt
  rw [red_toNat, green_toNat, blue_toNat]
  omega

/-! ## The frame buffer's primitives (R62) -/

/-- `fbCell_write` by the range of the cells written. -/
theorem fbCell_write_range {s : State} {m : Memory} (hm : s.fb = some m) (a b : Nat)
    (v : List Pixel) :
    fbCell { s with fb := some { m with cells := setCells a v m.cells } } b =
      if a ≤ b ∧ b < a + v.length then .val (v.getD (b - a) 0) else fbCell s b := by
  rw [fbCell_write hm]
  by_cases hlo : a ≤ b
  · rw [if_pos hlo]
    by_cases hhi : b < a + v.length
    · have hlt : b - a < v.length := by omega
      rw [if_pos ⟨hlo, hhi⟩, List.getElem?_eq_getElem hlt, List.getD_eq_getElem _ _ hlt]
    · rw [if_neg fun h => hhi h.2, List.getElem?_eq_none (by omega)]
  · rw [if_neg hlo, if_neg fun h => hlo h.1]

/-- Cells that all hold a pixel are read without a draw. -/
theorem readCells_known (m : Memory) (d : Draws) : ∀ (v : List Pixel) (a : Nat),
    (∀ (i : Nat) (p : Pixel), v[i]? = some p → m.cell (a + i) = .val p) →
    readCells m a v.length d = (v, d)
  | [], _, _ => rfl
  | p :: v, a, h => by
    have hfirst : m.cell a = .val p := h 0 p rfl
    have hothers : readCells m (a + 1) v.length d = (v, d) :=
      readCells_known m d v (a + 1) fun i q hq => by
        rw [Nat.add_assoc, Nat.add_comm 1]
        exact h (i + 1) q hq
    simp only [List.length_cons, readCells, hfirst, read_val, hothers]

/-- R62: `MemRead` of cells that all hold a pixel gives these and leaves the state. -/
theorem memRead_known {s : State} {m : Memory} {a : Nat} {v : List Pixel} (hm : s.fb = some m)
    (hle : a + v.length ≤ m.size)
    (h : ∀ (i : Nat) (p : Pixel), v[i]? = some p → fbCell s (a + i) = .val p) :
    memRead a v.length s = .ok (v, s) := by
  have hread : readCells m a v.length s.draws = (v, s.draws) := by
    refine readCells_known m s.draws v a fun i p hp => ?_
    simpa only [fbCell, hm] using h i p hp
  rw [memRead_eq hm hle, hread]
  rfl

/-- Settles O40: the new buffer is `setCells` of the old one, by its read-after-write laws. -/
theorem frameBufferPrimitives : Obligations.FrameBufferPrimitives := by
  intro s m a v hm hwf hle
  refine ⟨_, memWrite_eq hm hle, fun b => fbCell_write_range hm a b v, ⟨_, rfl, ?_, rfl⟩, rfl, ?_⟩
  · exact cellsWf_setCells _ _ _ _ _ (Nat.zero_le a) hle hwf
  · refine memRead_known (m := { m with cells := setCells a v m.cells }) rfl hle fun i p hp => ?_
    rw [fbCell_write hm, if_pos (Nat.le_add_right a i), Nat.add_sub_cancel_left, hp]

/-! ## The writers of the frame buffer (R60, R168) -/

/-- However the operation ends, the frame buffer is as it was. -/
def KeepsBuffer (f : State → OpOut) : Prop :=
  ∀ s, (f s).Leaves (fun t => t.fb = s.fb) (fun t => t.fb = s.fb) True

/-- What an operation leaves, from all that is known of its ends. -/
theorem OpOut.Ends.leaves {o : OpOut} {k : Value → State → Prop} {e : Err → State → Prop}
    {w p q : State → Prop} {r : Refusal → Prop} {f : Fault → Prop} (h : o.Ends k e w r f)
    (hk : ∀ v t, k v t → p t) (he : ∀ x t, e x t → p t) (hw : ∀ t, w t → q t) :
    o.Leaves p q True :=
  h.mono hk he hw (fun _ _ => trivial) fun _ _ => trivial

/-- A change given by the whole state it leads to. -/
theorem fb_of_eq {s t u : State} (ht : t = u) (hfb : u.fb = s.fb) : t.fb = s.fb := ht ▸ hfb

section Buffer

variable (P : Params)

theorem openOp_keepsBuffer (bus : BusId) (clk mode : Nat) (sel : PinId) (depth : Nat) :
    KeepsBuffer (openOp P bus clk mode sel depth) := fun s =>
  (openOp_ends P bus clk mode sel depth s).leaves (fun _ _ ⟨_, _, _, ht⟩ => fb_of_eq ht rfl)
    (fun _ _ ⟨_, ht⟩ => fb_of_eq ht rfl) fun _ => False.elim

theorem sendOp_keepsBuffer (u : Unit9) : KeepsBuffer (sendOp P u) := by
  intro s
  refine (sendOp_ends P u s).leaves (fun _ _ ⟨_, _, ht⟩ => fb_of_eq ht rfl) ?_
    fun _ ⟨_, _, _, ht⟩ => fb_of_eq ht rfl
  rintro e t ⟨-, ⟨-, ht⟩ | ⟨cause, -, -, ht⟩⟩
  · exact fb_of_eq ht rfl
  · exact fb_of_eq ht rfl

theorem closeOp_keepsBuffer : KeepsBuffer closeOp := fun s =>
  (closeOp_ends s).leaves (fun _ _ ⟨_, _, ht⟩ => fb_of_eq ht rfl) (fun _ _ => False.elim)
    fun _ => False.elim

theorem runOp_keepsBuffer : KeepsBuffer (runOp P) := fun s =>
  (runOp_ends P s).leaves (fun _ _ ⟨_, _, ht⟩ => fb_of_eq ht rfl)
    (fun _ _ ⟨_, _, _, _, _, _, ht⟩ => fb_of_eq ht rfl)
    fun _ ⟨_, _, _, _, _, _, ht⟩ => fb_of_eq ht rfl

theorem configureOutputOp_keepsBuffer (pin : PinId) : KeepsBuffer (configureOutputOp P pin) := by
  intro s
  refine (configureOutputOp_ends P pin s).leaves ?_ (fun _ _ ⟨_, _, _, ht⟩ => fb_of_eq ht rfl)
    fun _ => False.elim
  rintro v t ⟨-, ⟨-, -, ht⟩ | ⟨-, -, ht⟩ | ⟨-, -, ht⟩⟩
  · exact fb_of_eq ht rfl
  · exact fb_of_eq ht rfl
  · exact fb_of_eq ht rfl

theorem setLevelOp_keepsBuffer (h : PinId) (l : Level) : KeepsBuffer (setLevelOp P h l) := by
  intro s
  refine (setLevelOp_ends P h l s).leaves ?_ (fun _ _ ⟨_, _, _, ht⟩ => fb_of_eq ht rfl)
    fun _ => False.elim
  rintro v t ⟨-, ⟨-, -, ht⟩ | ⟨-, -, -, ht⟩⟩
  · exact fb_of_eq ht rfl
  · exact fb_of_eq ht rfl

/-- The engine, which runs between the calls, only reads the buffer. -/
theorem timedResetOp_keepsBuffer (h : PinId) : KeepsBuffer (timedResetOp P h) := by
  intro s
  refine (timedResetOp_ends P h s).leaves ?_ (fun _ _ ⟨_, _, _, ht⟩ => fb_of_eq ht rfl)
    fun _ => False.elim
  rintro v t ⟨-, ⟨-, -, hafter⟩ | ⟨-, -, -, hafter⟩⟩
  · exact fb_of_eq hafter.frame rfl
  · exact fb_of_eq hafter.frame rfl

theorem pResetOp_keepsBuffer : KeepsBuffer pResetOp := fun s =>
  (pResetOp_ends s).leaves (fun _ _ ⟨_, _, ht⟩ => fb_of_eq ht rfl) (fun _ _ => False.elim)
    fun _ => False.elim

theorem pInitOp_keepsBuffer : KeepsBuffer pInitOp := fun s =>
  (pInitOp_ends s).leaves (fun _ _ ⟨_, _, ht⟩ => fb_of_eq ht rfl) (fun _ _ => False.elim)
    fun _ => False.elim

end Buffer

/-- R60: every instruction but the writers and the sequence that issues one. -/
theorem opOf_keepsBuffer : ∀ i : Instr, (∀ x0 y0 x1 y1 px, i ≠ .drawRect x0 y0 x1 y1 px) →
    (∀ tc w pl pins, i ≠ .pConfigure tc w pl pins) → i ≠ .bringUp → KeepsBuffer (opOf i)
  | .encCmd _, _, _, _ | .encData _, _, _, _ | .decUnit _, _, _, _ | .delay _, _, _, _ =>
    fun _ => rfl
  | .openBus _ _ _ _ _, _, _, _ => openOp_keepsBuffer _ _ _ _ _ _
  | .send _, _, _, _ | .cmd _, _, _, _ | .data _, _, _, _ => sendOp_keepsBuffer _ _
  | .close, _, _, _ => closeOp_keepsBuffer
  | .run, _, _, _ => runOp_keepsBuffer _
  | .configureOutput _, _, _, _ => configureOutputOp_keepsBuffer _ _
  | .setLevel _ _, _, _, _ => setLevelOp_keepsBuffer _ _ _
  | .timedResetSequence _, _, _, _ => timedResetOp_keepsBuffer _ _
  | .pReset, _, _, _ => pResetOp_keepsBuffer
  | .pInit, _, _, _ => pInitOp_keepsBuffer
  | .drawRect _ _ _ _ _, hdraw, _, _ => absurd rfl (hdraw _ _ _ _ _)
  | .pConfigure _ _ _ _, _, hconf, _ => absurd rfl (hconf _ _ _ _)
  | .bringUp, _, _, hbring => absurd rfl hbring

/-- Settles O39, by what each operation does to the buffer. -/
theorem frameBufferWriters : Obligations.FrameBufferWriters := by
  intro i s t hexec hdraw hconf hbring
  rw [exec_eq] at hexec
  exact (opOf_keepsBuffer i hdraw hconf hbring s).finish (q := fun t => t.fb = s.fb) hexec
    (fun _ _ => id) fun _ => id

/-! ## What a line shows during `DRAW_RECT` (R73, R79) -/

/-- What is known of an operation's ends, of the state a step makes of one. -/
theorem OpOut.Ends.of_finish {o : OpOut} {k : Value → State → Prop} {e : Err → State → Prop}
    {w : State → Prop} {r : Refusal → Prop} {f : Fault → Prop} {t : State}
    (h : o.Ends k e w r f) (ht : Machine.finish o = .next t) :
    (∃ v u, k v u ∧ t = { u with result := some (.ok v) }) ∨
    (∃ x u, e x u ∧ t = { u with result := some (.err x) }) ∨
    (∃ u, w u ∧ t = { u with thread := .stuck }) := by
  obtain ⟨v, u, rfl, hu⟩ | ⟨x, u, rfl, hu⟩ | ⟨u, rfl, hu⟩ := finish_next ht
  · exact .inl ⟨v, u, h, hu⟩
  · exact .inr (.inl ⟨x, u, h, hu⟩)
  · exact .inr (.inr ⟨u, h, hu⟩)

/-- Settles O38: a copy-in writes each row in one access, so a line fetched between two accesses
shows its row as before or as after (`CopiedIn.lines`); an error fetches no line. -/
theorem lineShowsRowBeforeOrAfter : Obligations.LineShowsRowBeforeOrAfter := by
  intro P s t tc x0 y0 x1 y1 pixels hinv htc hexec
  by_cases hconf : s.pState = .unconfigured
  · rw [exec_refused (i := .drawRect x0 y0 x1 y1 pixels)
      (drawRectOp_unconfigured x0 y0 x1 y1 pixels hconf)] at hexec
    cases hexec
  · obtain ⟨v, u, ⟨-, -, hcopied⟩, rfl⟩ | ⟨e, u, ⟨-, rfl⟩, rfl⟩ | ⟨u, hstuck, -⟩ :=
      (drawRectOp_ends x0 y0 x1 y1 pixels hinv hconf htc).of_finish hexec
    · exact hcopied.lines
    · exact ⟨[], (List.append_nil _).symm, nofun⟩
    · exact hstuck.elim

/-! ## The data lines (R67, R184) -/

theorem phaseOf_eq_active_iff {sync porch res n i : Nat} :
    phaseOf sync porch res n = .active i ↔ i < res ∧ n = sync + porch + i := by
  constructor
  · intro h
    unfold phaseOf at h
    split at h
    · cases h
    · split at h
      · cases h
      · split at h
        · cases h; omega
        · cases h
  · rintro ⟨hlt, rfl⟩
    rw [phaseOf_active (by omega) (by omega), Nat.add_sub_cancel_left]

/-- R181: `HCNT` in the active phase of a line. -/
theorem linePhase_eq_active_iff {tc : TimingConfig} {h x : Nat} :
    linePhase tc h = .active x ↔ x < tc.hRes ∧ h = tc.hsyncPw + tc.hbp + x :=
  phaseOf_eq_active_iff

/-- R181: `VCNT` in the active phase of a frame. -/
theorem framePhase_eq_active_iff {tc : TimingConfig} {v y : Nat} :
    framePhase tc v = .active y ↔ y < tc.vRes ∧ v = tc.vsyncPw + tc.vbp + y :=
  phaseOf_eq_active_iff

theorem activeRow_of_active {tc : TimingConfig} {v y : Nat} (h : framePhase tc v = .active y) :
    activeRow tc v = some y := by
  simp only [activeRow, h]

theorem fetchLine_not_due {tc : TimingConfig} {h : Nat} (v : Nat) (s : State) (hne : h ≠ 0) :
    fetchLine tc h v s = .ok s := if_neg hne

/-- R183: the fetch that is due at the first clock of an active line loads what is read. -/
theorem fetchLine_due {tc : TimingConfig} {s u : State} {v y : Nat} {px : List Pixel}
    (hrow : framePhase tc v = .active y)
    (hread : memRead (cellIndex tc.hRes 0 y) tc.hRes s = .ok (px, u)) :
    fetchLine tc 0 v s = .ok (emit (.line y px) (loadLine px u)) := by
  simp only [fetchLine, if_true, activeRow_of_active hrow, hread]

/-- R62: a known cell among those read gives the pixel it holds. -/
theorem memRead_getElem? {a n i : Nat} {s u : State} {px : List Pixel} {p : Pixel}
    (h : memRead a n s = .ok (px, u)) (hi : i < n) (hp : fbCell s (a + i) = .val p) :
    px[i]? = some p := by
  obtain ⟨m, hm, -, rfl, -, -⟩ := memRead_ok h
  simp only [fbCell, hm] at hp
  exact readCells_val m n a s.draws i p hi hp

/-- A row of the configured buffer can be read. -/
theorem ConfigInv.memRead_row {P : Params} {s : State} {tc : TimingConfig} {m : Memory} {y : Nat}
    (h : ConfigInv P s tc m) (hy : y < tc.vRes) :
    ∃ px u, memRead (cellIndex tc.hRes 0 y) tc.hRes s = .ok (px, u) :=
  ⟨_, _, memRead_eq h.buffer (by rw [h.size]; exact row_inside hy)⟩

/-- The state while the engine streams, with its timing and its counters known. -/
structure Scanning (s : State) (tc : TimingConfig) (h v : Nat) : Prop where
  streaming : s.pState = .streaming
  timing    : s.tc = .val tc
  column    : s.hcnt = .val h
  row       : s.vcnt = .val v

section Scanning

variable {s t : State} {tc : TimingConfig} {h v : Nat}

theorem Scanning.pixelClock_eq (hs : Scanning s tc h v) :
    pixelClock s = (fetchLine tc h v s).map (advanceCounters tc h v) :=
  Machine.pixelClock_eq hs.streaming hs.timing hs.column hs.row

/-- The line buffer after a pixel clock is the one its fetch leaves. -/
theorem Scanning.linebuf_of_fetch {u : State} (hs : Scanning s tc h v) (ht : pixelClock s = .ok t)
    (hu : fetchLine tc h v s = .ok u) : t.linebuf = u.linebuf := by
  rw [hs.pixelClock_eq, hu] at ht
  cases ht
  exact advanceCounters_linebuf tc h v u

theorem Scanning.busPixel_active (hs : Scanning s tc h v) {x y : Nat} {px : List Pixel} {p : Pixel}
    (hline : linePhase tc h = .active x) (hframe : framePhase tc v = .active y)
    (hbuf : s.linebuf = .val px) (hp : px[x]? = some p) : busPixel s = .val p := by
  simp only [busPixel, hs.streaming, hs.timing, hs.column, hs.row, hbuf, hline, hframe, hp]

theorem Scanning.busPixel_blank (hs : Scanning s tc h v)
    (hout : (∀ x, linePhase tc h ≠ .active x) ∨ ∀ y, framePhase tc v ≠ .active y) :
    busPixel s = .x := by
  cases hbuf : s.linebuf with
  | x => simp only [busPixel, hs.streaming, hs.timing, hs.column, hs.row, hbuf]
  | val px =>
    simp only [busPixel, hs.streaming, hs.timing, hs.column, hs.row, hbuf]
    split
    · next y x hframe hline =>
      obtain hout | hout := hout
      · exact absurd hline (hout x)
      · exact absurd hframe (hout y)
    · rfl

/-- The line buffer is no part of it. -/
theorem Scanning.set_linebuf (hs : Scanning s tc h v) (l : Xv (List Pixel)) :
    Scanning { s with linebuf := l } tc h v :=
  ⟨hs.streaming, hs.timing, hs.column, hs.row⟩

theorem Scanning.busPixelAtClock_eq (hs : Scanning s tc h v) (ht : pixelClock s = .ok t) :
    busPixelAtClock s = .ok (busPixel { s with linebuf := t.linebuf }) :=
  Machine.busPixelAtClock_eq hs.streaming hs.timing hs.column hs.row ht

/-- R184: in the active phase of an active line, from the line buffer the pixel clock leaves. -/
theorem Scanning.dataLine_active (hs : Scanning s tc h v) (ht : pixelClock s = .ok t) {x y : Nat}
    {px : List Pixel} {p : Pixel} (hline : linePhase tc h = .active x)
    (hframe : framePhase tc v = .active y) (hbuf : t.linebuf = .val px) (hp : px[x]? = some p)
    (i : Nat) : dataLine s i = .level (p.getLsbD i) := by
  have hpixel := (hs.set_linebuf t.linebuf).busPixel_active hline hframe hbuf hp
  simp only [dataLine, hs.busPixelAtClock_eq ht, hpixel]

/-- R184: in every other phase. -/
theorem Scanning.dataLine_blank (hs : Scanning s tc h v) (ht : pixelClock s = .ok t)
    (hout : (∀ x, linePhase tc h ≠ .active x) ∨ ∀ y, framePhase tc v ≠ .active y) (i : Nat) :
    dataLine s i = .x := by
  have hpixel := (hs.set_linebuf t.linebuf).busPixel_blank hout
  simp only [dataLine, hs.busPixelAtClock_eq ht, hpixel]

end Scanning

/-- Settles O44: the bus shows the line buffer that the pixel clock leaves, which is the old one
unless a fetch is due, and then the fetched row. -/
theorem pixelBusLines : Obligations.PixelBusLines := by
  intro P s tc h v hinv hp htc hh hv
  have hs : Scanning s tc h v := ⟨hp, htc, hh, hv⟩
  obtain ⟨t, ht, -⟩ := pixelClock_keeps hinv
  refine ⟨⟨t, ht, fun hne => ?_, ?_⟩, ?_, fun i hout => hs.dataLine_blank ht ?_ i⟩
  · exact hs.linebuf_of_fetch ht (fetchLine_not_due v s hne)
  · intro px x p i hbuf _ hx hcol hlo hhi hpx
    have hframe : framePhase tc v = .active (v - (tc.vsyncPw + tc.vbp)) :=
      framePhase_eq_active_iff.mpr (by omega)
    exact hs.dataLine_active ht (linePhase_eq_active_iff.mpr ⟨hx, hcol⟩) hframe hbuf hpx i
  · intro y p i hcol hporch hres hy hrow _ hcell
    subst hcol
    have hframe := framePhase_eq_active_iff.mpr ⟨hy, hrow⟩
    have hline : linePhase tc 0 = .active 0 := linePhase_eq_active_iff.mpr (by omega)
    obtain ⟨tc', m, hconf⟩ := hinv.configured (by rw [hp]; decide)
    obtain rfl : tc = tc' := by simpa [htc] using hconf.timing
    obtain ⟨px, u, hread⟩ := hconf.memRead_row hy
    have hbuf : t.linebuf = .val px := hs.linebuf_of_fetch ht (fetchLine_due hframe hread)
    exact hs.dataLine_active ht hline hframe hbuf (memRead_getElem? hread hres hcell) i
  · simp only [ne_eq, linePhase_eq_active_iff, framePhase_eq_active_iff]
    obtain hout | hout | hout | hout := hout
    · exact .inl (by omega)
    · exact .inl (by omega)
    · exact .inr (by omega)
    · exact .inr (by omega)

end Sys2Proof.Machine

/-! The family 30_encoding.md: the readers of the coded operands, the decoder and the encoder as
inverses, the operands and codes that are refused, a register program's frames read back and
counted, and the rows that one frame of pixel clocks fetches. -/

namespace Sys2Proof

/-! ## Readers of coded operands (R97) -/

/-- The reader `f` reads exactly the coded form `g a` as `a`. -/
def Reads {α β : Type} (f : β → Except DecodeError α) (g : α → β) : Prop :=
  ∀ b a, f b = .ok a ↔ b = g a

/-- A result that, if it is an error, is `operandRange`. -/
def RangeOnly {α : Type} (x : Except DecodeError α) : Prop :=
  ∀ e, x = .error e → e = .operandRange

section Readers

variable {α β γ : Type} {f : β → Except DecodeError α} {g : α → β}
  {k : α → Except DecodeError γ} {x : Except DecodeError α}

theorem Reads.read (hf : Reads f g) (a : α) : f (g a) = .ok a := (hf _ a).mpr rfl

/-- Reading a coded form goes on with what it codes. -/
theorem Reads.read_bind (hf : Reads f g) (a : α) : (f (g a) >>= k) = k a := by
  rw [hf.read]; rfl

/-- Whatever was read and gone on with was a coded form. -/
theorem Reads.bind_eq_ok_iff (hf : Reads f g) {b : β} {c : γ} :
    (f b >>= k) = .ok c ↔ ∃ a, b = g a ∧ k a = .ok c := by
  constructor
  · intro h
    cases hfb : f b with
    | error e => rw [hfb] at h; cases h
    | ok a => rw [hfb] at h; exact ⟨a, (hf b a).mp hfb, h⟩
  · rintro ⟨a, rfl, hk⟩
    rw [hf.read_bind, hk]

theorem RangeOnly.trans (hx : RangeOnly x) (hk : ∀ a, RangeOnly (k a)) : RangeOnly (x >>= k) := by
  cases hread : x with
  | error e => rintro e' ⟨⟩; exact hx e hread
  | ok a => exact hk a

/-- R97: to show a refusal, go on as if the operand were in range. -/
theorem RangeOnly.bind (hx : RangeOnly x) (hk : ∀ a, x = .ok a → k a = .error .operandRange) :
    (x >>= k) = .error .operandRange := by
  cases hread : x with
  | error e => rw [hx e hread]; rfl
  | ok a => exact hk a hread

end Readers

/-! ### Numbers -/

theorem natOfInt_reads : Reads natOfInt fun a : Nat => (a : Int) := by
  intro n a
  unfold natOfInt
  split
  · simp only [Except.ok.injEq]; omega
  · simp only [reduceCtorEq, false_iff]; omega

theorem natOfInt_rangeOnly (n : Int) : RangeOnly (natOfInt n) := by
  intro e h
  unfold natOfInt at h
  split at h
  · cases h
  · cases h; rfl

theorem bitsOfInt_reads (w : Nat) : Reads (bitsOfInt w) fun a : BitVec w => (a.toNat : Int) := by
  intro n a
  have hpow : ((2 ^ w : Nat) : Int) = 2 ^ w := by norm_cast
  have ha := a.isLt
  unfold bitsOfInt
  split
  next hn =>
    have hlt : n.toNat < 2 ^ w := by omega
    simp only [Except.ok.injEq, ← BitVec.toNat_inj, BitVec.toNat_ofNat, Nat.mod_eq_of_lt hlt]
    omega
  next hn =>
    simp only [reduceCtorEq, false_iff]
    omega

theorem bitsOfInt_rangeOnly (w : Nat) (n : Int) : RangeOnly (bitsOfInt w n) := by
  intro e h
  unfold bitsOfInt at h
  split at h
  · cases h
  · cases h; rfl

theorem levelOfInt_reads : Reads levelOfInt fun a : Level => (a.toNat : Int) := by
  intro n a
  unfold levelOfInt
  split
  · next hn => subst hn; cases a <;> simp
  · split
    · next hn => subst hn; cases a <;> simp
    · cases a <;> simpa

theorem levelOfInt_rangeOnly (n : Int) : RangeOnly (levelOfInt n) := by
  intro e h
  unfold levelOfInt at h
  split at h
  · cases h
  · split at h
    · cases h
    · cases h; rfl

/-! ### Operands -/

section Operands

variable {α : Type} {f : Int → Except DecodeError α} {g : α → Int}

theorem readAll_cons (n : Int) (ns : List Int) :
    readAll f (n :: ns) = f n >>= fun a => readAll f ns >>= fun as => .ok (a :: as) := by
  rw [readAll]
  cases f n with
  | error e => rfl
  | ok a => cases readAll f ns <;> rfl

theorem Reads.readAll (hf : Reads f g) : Reads (readAll f) (List.map g) := by
  intro ns as
  constructor
  · intro h
    induction ns generalizing as with
    | nil => cases h; rfl
    | cons n ns ih =>
      rw [readAll_cons] at h
      obtain ⟨a, hn, hrest⟩ := hf.bind_eq_ok_iff.mp h
      cases hns : Sys2Proof.readAll f ns with
      | error e => rw [hns] at hrest; cases hrest
      | ok as' => rw [hns] at hrest; cases hrest; rw [hn, ih as' hns]; rfl
  · rintro rfl
    induction as with
    | nil => rfl
    | cons a as ih => rw [List.map_cons, readAll_cons, hf.read_bind, ih]; rfl

theorem readAll_rangeOnly (hf : ∀ n, RangeOnly (f n)) (ns : List Int) :
    RangeOnly (readAll f ns) := by
  induction ns with
  | nil => nofun
  | cons n ns ih =>
    rw [readAll_cons]
    exact (hf n).trans fun a => ih.trans fun as => nofun

theorem Reads.scalar (hf : Reads f g) : Reads (Operand.scalar f) fun a => .num (g a) := by
  intro o a
  cases o with
  | num n => rw [Operand.num.injEq]; exact hf n a
  | nums ns => simp only [Operand.scalar, reduceCtorEq]

theorem Reads.list (hf : Reads f g) : Reads (Operand.list f) fun as => .nums (as.map g) := by
  intro o as
  cases o with
  | num n => simp only [Operand.list, reduceCtorEq]
  | nums ns => rw [Operand.nums.injEq]; exact hf.readAll ns as

end Operands

theorem natOperand_reads : Reads (Operand.scalar natOfInt) fun a : Nat => .num a :=
  natOfInt_reads.scalar

theorem bitsOperand_reads (w : Nat) :
    Reads (Operand.scalar (bitsOfInt w)) fun a : BitVec w => .num a.toNat :=
  (bitsOfInt_reads w).scalar

theorem levelOperand_reads : Reads (Operand.scalar levelOfInt) fun a : Level => .num a.toNat :=
  levelOfInt_reads.scalar

theorem intOperand_reads : Reads (Operand.scalar Except.ok) Operand.num := by
  have hok : Reads (Except.ok : Int → Except DecodeError Int) id :=
    fun _ _ => by rw [Except.ok.injEq, id]
  exact hok.scalar

theorem natsOperand_reads : Reads (Operand.list natOfInt) Operand.ofNats := natOfInt_reads.list

theorem pixelsOperand_reads : Reads (Operand.list (bitsOfInt 16))
    fun px : List Pixel => .ofNats (px.map BitVec.toNat) := by
  intro o px
  simp only [Operand.ofNats, List.map_map]
  exact (bitsOfInt_reads 16).list o px

/-- R35: the nine fields in order. -/
theorem timingOfNats_reads : Reads timingOfNats natsOfTiming := by
  intro ns tc
  constructor
  · intro h
    unfold timingOfNats at h
    split at h
    · cases h; rfl
    · cases h
  · rintro rfl
    rfl

theorem timingOfNats_of_length {ns : List Nat} (h : ns.length = 9) :
    ∃ tc, timingOfNats ns = .ok tc := by
  match ns, h with
  | [pclk, hres, vres, hs, hb, hf, vs, vb, vf], _ => exact ⟨_, rfl⟩

/-- R95: a pin map of 16 entries is read as it stands. -/
theorem pinmapOfNats_bind_eq_ok_iff {γ : Type} {k : List PinId → Except DecodeError γ}
    {ps : List Nat} {c : γ} :
    (pinmapOfNats ps >>= k) = .ok c ↔ ps.length = 16 ∧ k ps = .ok c := by
  unfold pinmapOfNats
  split
  · next h => exact (and_iff_right h).symm
  · next h => exact iff_of_false nofun fun hp => h hp.1

@[simp] theorem placementOfNat_natOfPlacement (pl : Placement) :
    placementOfNat (natOfPlacement pl) = pl := by
  cases pl <;> rfl

@[simp] theorem natOfPlacement_placementOfNat (n : Nat) :
    natOfPlacement (placementOfNat n) = n := by
  cases n <;> rfl

/-! ## Operation codes (R94, R101) -/

theorem HostOp.ofCode_code (o : HostOp) : HostOp.ofCode o.code = some o := by cases o <;> rfl

theorem HostOp.code_of_ofCode {op : Nat} {o : HostOp} (h : HostOp.ofCode op = some o) :
    o.code = op := by
  simpa using List.find?_some h

theorem HostOp.ofCode_eq_none {op : Nat} (h : ∀ o : HostOp, o.code ≠ op) :
    HostOp.ofCode op = none := by
  cases hop : HostOp.ofCode op with
  | none => rfl
  | some o => exact absurd (HostOp.code_of_ofCode hop) (h o)

theorem decode_code (o : HostOp) (args : List Operand) :
    decode (.hostOp o.code args) = decodeArgs o args := by
  simp only [decode, o.ofCode_code]

theorem decode_reserved {op : Nat} (args : List Operand) (h : ∀ o : HostOp, o.code ≠ op) :
    decode (.hostOp op args) = .error .reservedCode := by
  simp only [decode, HostOp.ofCode_eq_none h]

/-! ## Units (R91, R96) -/

theorem unitOf_toNat (r : Bool) (b : Byte) : (unitOf r b).toNat = 256 * r.toNat + b.toNat := by
  have hor := Nat.shiftLeft_add_eq_or_of_lt b.isLt r.toNat
  rw [Nat.shiftLeft_eq] at hor
  have hb : b.toNat < 256 := b.isLt
  have hr := r.toNat_lt
  simp only [unitOf, BitVec.toNat_or, BitVec.toNat_shiftLeft, BitVec.toNat_setWidth,
    BitVec.toNat_ofBool, Nat.shiftLeft_eq]
  rw [Nat.mod_eq_of_lt (by omega : r.toNat < 2 ^ 9), Nat.mod_eq_of_lt (by omega),
    Nat.mod_eq_of_lt (by omega : b.toNat < 2 ^ 9), ← hor]
  omega

theorem unitByte_toNat (u : Unit9) : (unitByte u).toNat = u.toNat % 256 := by
  simp [unitByte]

theorem unitRole_eq (u : Unit9) : unitRole u = decide (256 ≤ u.toNat) := by
  have hu : u.toNat < 512 := u.isLt
  rw [unitRole, BitVec.getLsbD, Nat.testBit_eq_decide_div_mod_eq, decide_eq_decide]
  omega

@[simp] theorem unitRole_unitOf (r : Bool) (b : Byte) : unitRole (unitOf r b) = r := by
  have hb : b.toNat < 256 := b.isLt
  rw [unitRole_eq, unitOf_toNat]
  cases r <;> simp [hb]

@[simp] theorem unitByte_unitOf (r : Bool) (b : Byte) : unitByte (unitOf r b) = b := by
  have hb : b.toNat < 256 := b.isLt
  apply BitVec.eq_of_toNat_eq
  rw [unitByte_toNat, unitOf_toNat]
  omega

theorem unitOf_role_byte (u : Unit9) : unitOf (unitRole u) (unitByte u) = u := by
  apply BitVec.eq_of_toNat_eq
  have hu : u.toNat < 512 := u.isLt
  rw [unitOf_toNat, unitByte_toNat, unitRole_eq]
  by_cases h : 256 ≤ u.toNat
  · simp only [h, decide_true, Bool.toNat_true]; omega
  · simp only [h, decide_false, Bool.toNat_false]; omega

/-! ## Decoding undoes encoding -/

theorem decodeUnit_unitOf (r : Bool) (b : Byte) :
    decodeUnit (unitOf r b) = if r then .data b else .cmd b := by
  simp only [decodeUnit, unitRole_unitOf, unitByte_unitOf]

theorem decode_unit (u : Unit9) : decode (.frame u.toNat) = .ok (decodeUnit u) := by
  rw [decode, if_pos u.isLt, BitVec.ofNat_toNat, BitVec.setWidth_eq]

theorem encode_cmd (b : Byte) : encode (.cmd b) = .frame (unitOf false b).toNat := by
  simp [encode, unitOf_toNat]

theorem encode_data (b : Byte) : encode (.data b) = .frame (unitOf true b).toNat := by
  simp [encode, unitOf_toNat]

/-- Each operand reads back, and each unit has its role bit. -/
theorem decode_encode {i : Instr} (h : i.wellFormed = true) : decode (encode i) = .ok i := by
  cases i with
  | encCmd b => exact (bitsOperand_reads 8).read_bind b
  | encData b => exact (bitsOperand_reads 8).read_bind b
  | decUnit u => exact (bitsOperand_reads 9).read_bind u
  | openBus bus clk mode sel depth =>
    refine (decode_code .openBus _).trans ?_
    simp only [decodeArgs, natOperand_reads.read_bind]
  | send u => exact (bitsOperand_reads 9).read_bind u
  | close => rfl
  | run => rfl
  | delay t => exact natOperand_reads.read_bind t
  | configureOutput pin => exact natOperand_reads.read_bind pin
  | setLevel pin l =>
    refine (decode_code .setLevel _).trans ?_
    simp only [decodeArgs, natOperand_reads.read_bind, levelOperand_reads.read_bind]
  | timedResetSequence pin => exact natOperand_reads.read_bind pin
  | pConfigure tc width pl pins =>
    refine (decode_code .pConfigure _).trans ?_
    have hpins : pins.length = 16 := by simpa only [Instr.wellFormed, beq_iff_eq] using h
    simp only [decodeArgs, natsOperand_reads.read_bind, timingOfNats_reads.read_bind,
      natOperand_reads.read_bind, placementOfNat_natOfPlacement]
    exact pinmapOfNats_bind_eq_ok_iff.mpr ⟨hpins, rfl⟩
  | pReset => rfl
  | pInit => rfl
  | drawRect x0 y0 x1 y1 px =>
    refine (decode_code .drawRect _).trans ?_
    simp only [decodeArgs, intOperand_reads.read_bind, pixelsOperand_reads.read_bind]
  | bringUp => rfl
  | cmd b => rw [encode_cmd, decode_unit, decodeUnit_unitOf]; rfl
  | data b => rw [encode_data, decode_unit, decodeUnit_unitOf]; rfl

/-- Settles O1: the reader of each operand undoes its coded form. -/
theorem decodeOfEncode : Obligations.DecodeOfEncode := fun _ => decode_encode

/-! ## Encoding undoes decoding -/

theorem encode_decodeUnit (u : Unit9) : encode (decodeUnit u) = .frame u.toNat := by
  rw [← unitOf_role_byte u, decodeUnit_unitOf]
  cases unitRole u
  · exact encode_cmd _
  · exact encode_data _

theorem wellFormed_decodeUnit (u : Unit9) : (decodeUnit u).wellFormed = true := by
  unfold decodeUnit
  split <;> rfl

/-- An operation of one operand is the coded form of what its reader makes of it. -/
theorem encode_of_read {α : Type} {f : Operand → Except DecodeError α} {g : α → Operand}
    (hf : Reads f g) {instr : α → Instr} {op : Nat} {x : Operand} {i : Instr}
    (hcoded : ∀ a, encode (instr a) = .hostOp op [g a] ∧ (instr a).wellFormed = true)
    (h : (f x >>= fun a => .ok (instr a)) = .ok i) :
    encode i = .hostOp op [x] ∧ i.wellFormed = true := by
  obtain ⟨a, rfl, hi⟩ := hf.bind_eq_ok_iff.mp h
  cases hi
  exact hcoded a

/-- R95: whatever the operands of an operation decode to has them as its coded form. -/
theorem encode_of_decodeArgs {o : HostOp} {args : List Operand} {i : Instr}
    (h : decodeArgs o args = .ok i) :
    encode i = .hostOp o.code args ∧ i.wellFormed = true := by
  unfold decodeArgs at h
  split at h
  · exact encode_of_read (bitsOperand_reads 8) (fun _ => ⟨rfl, rfl⟩) h
  · exact encode_of_read (bitsOperand_reads 8) (fun _ => ⟨rfl, rfl⟩) h
  · exact encode_of_read (bitsOperand_reads 9) (fun _ => ⟨rfl, rfl⟩) h
  · simp only [natOperand_reads.bind_eq_ok_iff] at h
    obtain ⟨bus, rfl, clk, rfl, mode, rfl, sel, rfl, depth, rfl, hi⟩ := h
    cases hi
    exact ⟨rfl, rfl⟩
  · exact encode_of_read (bitsOperand_reads 9) (fun _ => ⟨rfl, rfl⟩) h
  · cases h; exact ⟨rfl, rfl⟩
  · cases h; exact ⟨rfl, rfl⟩
  · exact encode_of_read natOperand_reads (fun _ => ⟨rfl, rfl⟩) h
  · exact encode_of_read natOperand_reads (fun _ => ⟨rfl, rfl⟩) h
  · simp only [natOperand_reads.bind_eq_ok_iff, levelOperand_reads.bind_eq_ok_iff] at h
    obtain ⟨pin, rfl, l, rfl, hi⟩ := h
    cases hi
    exact ⟨rfl, rfl⟩
  · exact encode_of_read natOperand_reads (fun _ => ⟨rfl, rfl⟩) h
  · simp only [natsOperand_reads.bind_eq_ok_iff, timingOfNats_reads.bind_eq_ok_iff,
      natOperand_reads.bind_eq_ok_iff, pinmapOfNats_bind_eq_ok_iff] at h
    obtain ⟨_, rfl, tc, rfl, width, rfl, pl, rfl, pins, rfl, hlen, hi⟩ := h
    cases hi
    refine ⟨?_, beq_iff_eq.mpr hlen⟩
    rw [encode, natOfPlacement_placementOfNat]
    rfl
  · cases h; exact ⟨rfl, rfl⟩
  · cases h; exact ⟨rfl, rfl⟩
  · simp only [intOperand_reads.bind_eq_ok_iff, pixelsOperand_reads.bind_eq_ok_iff] at h
    obtain ⟨x0, rfl, y0, rfl, x1, rfl, y1, rfl, px, rfl, hi⟩ := h
    cases hi
    exact ⟨rfl, rfl⟩
  · cases h; exact ⟨rfl, rfl⟩
  · cases h

theorem encode_of_decode {c : CodeWord} {i : Instr} (h : decode c = .ok i) :
    encode i = c ∧ i.wellFormed = true := by
  cases c with
  | hostOp op args =>
    cases hop : HostOp.ofCode op with
    | none => simp only [decode, hop, reduceCtorEq] at h
    | some o =>
      simp only [decode, hop] at h
      rw [← HostOp.code_of_ofCode hop]
      exact encode_of_decodeArgs h
  | frame u =>
    rw [decode] at h
    split at h
    · next hlt =>
      cases h
      refine ⟨?_, wellFormed_decodeUnit _⟩
      rw [encode_decodeUnit, BitVec.toNat_ofNat, Nat.mod_eq_of_lt hlt]
    · cases h

/-- Settles O2: a reader accepts nothing but the coded form of what it answers. -/
theorem encodeOfDecode : Obligations.EncodeOfDecode := fun _ _ => encode_of_decode

/-! ## Register programs as frames (R92, R98, R99) -/

theorem takeData_data_append (ds : List Byte) (us : List Unit9) :
    takeData (ds.map (unitOf true) ++ us) = (ds ++ (takeData us).1, (takeData us).2) := by
  induction ds with
  | nil => rfl
  | cons d ds ih =>
    rw [List.map_cons, List.cons_append, takeData, unitRole_unitOf, if_pos rfl, ih,
      unitByte_unitOf]
    rfl

/-- R92: an entry begins with a command, so no data byte stands before the first entry. -/
theorem takeData_entries (entries : List Entry) :
    (takeData (entries.flatMap Entry.frames)).1 = [] := by
  cases entries with
  | nil => rfl
  | cons e es =>
    rw [List.flatMap_cons, Entry.frames, List.cons_append, takeData, unitRole_unitOf]
    rfl

/-- R99: data frames without a command belong to no entry. -/
theorem entriesOfFrames_data_append (ds : List Byte) (us : List Unit9) :
    entriesOfFrames (ds.map (unitOf true) ++ us) = entriesOfFrames us := by
  induction ds with
  | nil => rfl
  | cons d ds ih =>
    rw [List.map_cons, List.cons_append, entriesOfFrames, unitRole_unitOf, if_pos rfl, ih]

/-- R98: the frames of an entry give it back, with whatever data bytes follow them. -/
theorem entriesOfFrames_frames_append (e : Entry) (us : List Unit9) :
    entriesOfFrames (e.frames ++ us) =
      ⟨e.command, e.data ++ (takeData us).1⟩ :: entriesOfFrames us := by
  rw [Entry.frames, List.cons_append, entriesOfFrames, unitRole_unitOf, unitByte_unitOf,
    takeData_data_append, entriesOfFrames_data_append]
  rfl

theorem entriesOfFrames_entries (entries : List Entry) :
    entriesOfFrames (entries.flatMap Entry.frames) = entries := by
  induction entries with
  | nil => rfl
  | cons e es ih =>
    rw [List.flatMap_cons, entriesOfFrames_frames_append, takeData_entries, ih, List.append_nil]

/-- Settles O6: the stray data frames before the entries are skipped and reported apart. -/
theorem frameStreamReadsBack : Obligations.FrameStreamReadsBack := by
  intro stray entries
  constructor
  · rw [entriesOfFrames_data_append, entriesOfFrames_entries]
  · rw [strayData, takeData_data_append, takeData_entries, List.append_nil]

/-! ## Refused codes and operands (R97, R101) -/

/-- Settles O3: no operation of R94 has a code of R101. -/
theorem reservedCodesRefused : Obligations.ReservedCodesRefused := by
  intro s op args rest hop hrun hprog
  have hcode : ∀ o : HostOp, o.code ≠ op := by
    intro o
    cases o <;> (simp only [HostOp.code]; omega)
  have hdec := decode_reserved args hcode
  exact ⟨hdec, Machine.step_of_undecodable hrun hprog hdec⟩

/-! An operand is refused with `operandRange` if going on with every value it could be the coded
form of leads to that refusal, because a number that reads as no value is refused so itself. -/

section Range

theorem refused_num {α : Type} {f : Int → Except DecodeError α} {g : α → Int} (hf : Reads f g)
    (hrange : ∀ n, RangeOnly (f n)) {n : Int} {k : α → Except DecodeError Instr}
    (h : ∀ a, n = g a → k a = .error .operandRange) :
    ((Operand.num n).scalar f >>= k) = .error .operandRange :=
  (hrange n).bind fun a ha => h a ((hf n a).mp ha)

theorem refused_nums {α : Type} {f : Int → Except DecodeError α} {g : α → Int} (hf : Reads f g)
    (hrange : ∀ n, RangeOnly (f n)) {ns : List Int} {k : List α → Except DecodeError Instr}
    (h : ∀ as, ns = as.map g → k as = .error .operandRange) :
    ((Operand.nums ns).list f >>= k) = .error .operandRange :=
  (readAll_rangeOnly hrange ns).bind fun as has => h as ((hf.readAll ns as).mp has)

theorem refused_nat {n : Int} {k : Nat → Except DecodeError Instr}
    (h : ∀ a : Nat, n = a → k a = .error .operandRange) :
    ((Operand.num n).scalar natOfInt >>= k) = .error .operandRange :=
  refused_num natOfInt_reads natOfInt_rangeOnly h

variable {n : Int}

/-- One natural operand. -/
theorem refused_of_neg {instr : Nat → Instr} (h : n < 0) :
    ((Operand.num n).scalar natOfInt >>= fun a => .ok (instr a)) = .error .operandRange :=
  refused_nat fun _ ha => by omega

/-- One operand of `w` bits. -/
theorem refused_of_not_bits (w : Nat) {instr : BitVec w → Instr} (h : n < 0 ∨ 2 ^ w ≤ n) :
    ((Operand.num n).scalar (bitsOfInt w) >>= fun a => .ok (instr a)) = .error .operandRange :=
  refused_num (bitsOfInt_reads w) (bitsOfInt_rangeOnly w) fun a ha => by
    have hlt : (a.toNat : Int) < 2 ^ w := by exact_mod_cast a.isLt
    omega

theorem setLevel_refused {pin : Int} (h : pin < 0 ∨ n < 0 ∨ 2 ≤ n) :
    decodeArgs .setLevel [.num pin, .num n] = .error .operandRange := by
  refine refused_nat fun _ hpin => refused_num levelOfInt_reads levelOfInt_rangeOnly fun l hl => ?_
  have := l.toNat_lt
  omega

theorem drawRect_refused (x0 y0 x1 y1 : Int) {pixels : List Int}
    (h : ∃ n ∈ pixels, n < 0 ∨ 65536 ≤ n) :
    decodeArgs .drawRect [.num x0, .num y0, .num x1, .num y1, .nums pixels] =
      .error .operandRange := by
  refine refused_nums (bitsOfInt_reads 16) (bitsOfInt_rangeOnly 16) fun px hpx => ?_
  obtain ⟨n, hmem, hn⟩ := h
  rw [hpx] at hmem
  obtain ⟨p, -, rfl⟩ := List.mem_map.mp hmem
  have := p.isLt
  omega

theorem openBus_refused {bus clk mode sel depth : Int}
    (h : bus < 0 ∨ clk < 0 ∨ mode < 0 ∨ sel < 0 ∨ depth < 0) :
    decodeArgs .openBus [.num bus, .num clk, .num mode, .num sel, .num depth] =
      .error .operandRange :=
  refused_nat fun _ hbus => refused_nat fun _ hclk => refused_nat fun _ hmode =>
    refused_nat fun _ hsel => refused_nat fun _ hdepth => by omega

/-- The two lists have the lengths that R95 wants, so that no other test refuses them first. -/
theorem pConfigure_refused {timing pins : List Int} {width placement : Int}
    (htiming : timing.length = 9) (hpins : pins.length = 16)
    (h : ∃ n ∈ timing ++ width :: placement :: pins, n < 0) :
    decodeArgs .pConfigure [.nums timing, .num width, .num placement, .nums pins] =
      .error .operandRange := by
  refine refused_nums natOfInt_reads natOfInt_rangeOnly fun ts hts => ?_
  obtain ⟨tc, htc⟩ := timingOfNats_of_length (ns := ts) (by simpa [hts] using htiming)
  rw [htc]
  refine refused_nat fun w hw => refused_nat fun pl hpl => ?_
  refine refused_nums natOfInt_reads natOfInt_rangeOnly fun ps hps => ?_
  obtain ⟨n, hmem, hn⟩ := h
  have hnat : ∃ a : Nat, n = a := by
    subst hts hw hpl hps
    simp only [List.mem_append, List.mem_cons, List.mem_map] at hmem
    obtain ⟨a, -, rfl⟩ | rfl | rfl | ⟨a, -, rfl⟩ := hmem
    · exact ⟨a, rfl⟩
    · exact ⟨w, rfl⟩
    · exact ⟨pl, rfl⟩
    · exact ⟨a, rfl⟩
  obtain ⟨a, rfl⟩ := hnat
  omega

end Range

/-- Settles O4: no value an operand type admits has such a number as its coded form. -/
theorem outOfRangeOperandsRefused : Obligations.OutOfRangeOperandsRefused := by
  refine ⟨fun n hn => ⟨?_, ?_⟩, fun n hn => ⟨?_, ?_⟩, fun pin n hn => ?_,
    fun x0 y0 x1 y1 pixels hn => ?_, fun bus clk mode sel depth hn => ?_,
    fun n hn => ⟨?_, ?_, ?_⟩, fun timing pins width pl htiming hpins hn => ?_, fun u hu => ?_⟩
  · exact (decode_code .encCmd _).trans (refused_of_not_bits 8 hn)
  · exact (decode_code .encData _).trans (refused_of_not_bits 8 hn)
  · exact (decode_code .decUnit _).trans (refused_of_not_bits 9 hn)
  · exact (decode_code .send _).trans (refused_of_not_bits 9 hn)
  · exact (decode_code .setLevel _).trans (setLevel_refused hn)
  · exact (decode_code .drawRect _).trans (drawRect_refused x0 y0 x1 y1 hn)
  · exact (decode_code .openBus _).trans (openBus_refused hn)
  · exact (decode_code .delay _).trans (refused_of_neg hn)
  · exact (decode_code .configureOutput _).trans (refused_of_neg hn)
  · exact (decode_code .timedResetSequence _).trans (refused_of_neg hn)
  · exact (decode_code .pConfigure _).trans (pConfigure_refused htiming hpins hn)
  · exact if_neg (by omega)

/-- Settles O5, by evaluation of the decoder on each word. -/
theorem sampleWordsDecode : Obligations.SampleWordsDecode :=
  ⟨rfl, rfl, rfl, rfl, rfl, rfl, rfl, rfl⟩

end Sys2Proof

namespace Sys2Proof.Machine

/-! ## The length of the step list (R105, R136) -/

/-- R92: one frame for the command and one for each data byte. -/
theorem frames_length (e : Entry) : e.frames.length = 1 + e.data.length := by
  rw [Entry.frames, List.length_cons, List.length_map, Nat.add_comm]

theorem entryFrames_length (table : List Entry) :
    (table.flatMap Entry.frames).length = (table.map fun e => 1 + e.data.length).sum := by
  simp only [List.length_flatMap, frames_length]

theorem entrySteps_eq (table : List Entry) :
    entrySteps table = (table.flatMap Entry.frames).map ProgramStep.send :=
  List.map_flatMap.symm

theorem sentUnits_append_sends (us : List Unit9) (rest : List ProgramStep) :
    sentUnits (us.map ProgramStep.send ++ rest) = us ++ sentUnits rest := by
  induction us with
  | nil => rfl
  | cons u us ih => rw [List.map_cons, List.cons_append, sentUnits, ih, List.cons_append]

theorem waitCount_append_sends (us : List Unit9) (rest : List ProgramStep) :
    waitCount ((us.map ProgramStep.send ++ rest).map ProgramStep.event) =
      waitCount (rest.map ProgramStep.event) := by
  induction us with
  | nil => rfl
  | cons u us ih => exact ih

/-- R136: the frames of the table, then the two closing commands with their delays. -/
theorem programSteps_eq (P : Params) :
    programSteps P =
      (P.regProgram.flatMap Entry.frames).map ProgramStep.send ++ closingSteps P := by
  rw [programSteps, entrySteps_eq]

/-- Settles O19: the table's entries are frames without waits, and the closing part is two frames
and two waits. -/
theorem programLengths : Obligations.ProgramLengths := by
  intro P
  have hframes := entryFrames_length P.regProgram
  refine ⟨?_, ?_, ?_⟩
  · rw [programLen, programSteps_eq, List.length_append, List.length_map, hframes]
    rfl
  · rw [programFrames, programSteps_eq, sentUnits_append_sends, List.length_append, hframes]
    rfl
  · rw [programSteps_eq, waitCount_append_sends]
    rfl

/-! ## One frame of pixel clocks (R106, R182, R183) -/

theorem advanceCounters_inLine {tc : TimingConfig} {h : Nat} (v : Nat) (s : State)
    (hin : h + 1 ≠ lineTotal tc) : advanceCounters tc h v s = setCounters (h + 1) v s :=
  if_neg hin

theorem advanceCounters_lineEnd {tc : TimingConfig} {h : Nat} (v : Nat) (s : State)
    (hend : h + 1 = lineTotal tc) (hlines : 0 < frameTotal tc) :
    advanceCounters tc h v s = setCounters 0 ((v + 1) % frameTotal tc) s := by
  rw [advanceCounters, if_pos hend, nextLine, if_neg (by omega)]

theorem advanceCounters_trace (tc : TimingConfig) (h v : Nat) (s : State) :
    (advanceCounters tc h v s).trace = s.trace := by
  unfold advanceCounters nextLine
  split
  · split <;> rfl
  · rfl

/-- The events of the pixel clock at the counters `h` and `v`: the row of an active line at its
first clock, nothing at any other. -/
inductive Fetched (tc : TimingConfig) (h v : Nat) : List Event → Prop
  | row {y : Nat} {px : List Pixel} (hfirst : h = 0) (hrow : framePhase tc v = .active y)
      (hlen : px.length = tc.hRes) : Fetched tc h v [.line y px]
  | nothing (hout : h ≠ 0 ∨ ∀ y, framePhase tc v ≠ .active y) : Fetched tc h v []

theorem Fetched.eq_nil {tc : TimingConfig} {h v : Nat} {ls : List Event} (hl : Fetched tc h v ls)
    (hne : h ≠ 0) : ls = [] := by
  cases hl with
  | row hfirst => exact absurd hfirst hne
  | nothing => rfl

theorem framePhase_of_activeRow {tc : TimingConfig} {v y : Nat} (h : activeRow tc v = some y) :
    framePhase tc v = .active y := by
  unfold activeRow at h
  split at h
  · next hrow => cases h; exact hrow
  · cases h

theorem fetchLine_fetched {tc : TimingConfig} {h v : Nat} {s t : State}
    (hf : fetchLine tc h v s = .ok t) : ∃ ls, Fetched tc h v ls ∧ t.trace = s.trace ++ ls := by
  unfold fetchLine at hf
  split at hf
  · next hfirst =>
    split at hf
    · next hnone =>
      cases hf
      refine ⟨[], .nothing (.inr fun y hrow => ?_), (List.append_nil _).symm⟩
      rw [activeRow_of_active hrow] at hnone
      cases hnone
    · next y hsome =>
      split at hf
      · cases hf
      · next px u hread =>
        obtain ⟨m, -, -, -, hlen, rfl⟩ := memRead_ok hread
        cases hf
        exact ⟨[.line y px], .row hfirst (framePhase_of_activeRow hsome) hlen, rfl⟩
  · next hne =>
    cases hf
    exact ⟨[], .nothing (.inl hne), (List.append_nil _).symm⟩

/-- The engine has gone on from `s` to `t`, where its counters are `h` and `v`, and has appended
`ls` to the trace. -/
structure Scanned (P : Params) (tc : TimingConfig) (s t : State) (h v : Nat) (ls : List Event) :
    Prop where
  inv      : ParallelInv P t
  counters : Scanning t tc h v
  buffer   : t.fb = s.fb
  trace    : t.trace = s.trace ++ ls

section Frame

variable {P : Params} {tc : TimingConfig} {s t u : State} {h v h' v' : Nat} {ls ls' : List Event}

theorem Scanned.refl (hinv : ParallelInv P s) (hs : Scanning s tc h v) :
    Scanned P tc s s h v [] :=
  ⟨hinv, hs, rfl, (List.append_nil _).symm⟩

theorem Scanned.trans (hst : Scanned P tc s t h v ls) (htu : Scanned P tc t u h' v' ls') :
    Scanned P tc s u h' v' (ls ++ ls') :=
  ⟨htu.inv, htu.counters, htu.buffer.trans hst.buffer, by
    rw [htu.trace, hst.trace, List.append_assoc]⟩

/-- One pixel clock: the fetch that is due, and the counter step. -/
theorem Scanning.pixelClock_scanned (hinv : ParallelInv P s) (hs : Scanning s tc h v)
    (hnext : ∀ u, (advanceCounters tc h v u).hcnt = .val h' ∧
      (advanceCounters tc h v u).vcnt = .val v') :
    ∃ t ls, pixelClock s = .ok t ∧ Fetched tc h v ls ∧ Scanned P tc s t h' v' ls := by
  obtain ⟨t, hclock, hinv'⟩ := pixelClock_keeps hinv
  have hframe := (pixelClock_engine hclock).frame
  have hstream : t.pState = s.pState := by rw [hframe]; rfl
  have htiming : t.tc = s.tc := by rw [hframe]; rfl
  have hbuffer : t.fb = s.fb := by rw [hframe]; rfl
  cases hfetch : fetchLine tc h v s with
  | error f => rw [hs.pixelClock_eq, hfetch] at hclock; cases hclock
  | ok u =>
    obtain ⟨ls, hls, htrace⟩ := fetchLine_fetched hfetch
    have ht : t = advanceCounters tc h v u := by
      rw [hs.pixelClock_eq, hfetch] at hclock
      cases hclock
      rfl
    obtain ⟨hcol, hrow⟩ := hnext u
    refine ⟨t, ls, hclock, hls, hinv', ⟨?_, ?_, ?_, ?_⟩, hbuffer, ?_⟩
    · exact hstream.trans hs.streaming
    · exact htiming.trans hs.timing
    · rw [ht, hcol]
    · rw [ht, hrow]
    · rw [ht, advanceCounters_trace, htrace]

theorem pixelClocks_add {a b : Nat} (hst : pixelClocks a s = .ok t) :
    pixelClocks (a + b) s = pixelClocks b t := by
  induction a generalizing s with
  | zero => cases hst; rw [Nat.zero_add]
  | succ a ih =>
    rw [Nat.add_right_comm, pixelClocks]
    rw [pixelClocks] at hst
    cases hclock : pixelClock s with
    | error f => rw [hclock] at hst; cases hst
    | ok s' => rw [hclock] at hst; exact ih hst

/-- R182: the clocks that are left of a line lead to the start of the next one, and only the
first of them can fetch. -/
theorem Scanning.restOfLine (hlines : 0 < frameTotal tc) (k : Nat) : ∀ {s : State} {h : Nat},
    ParallelInv P s → Scanning s tc h v → h + (k + 1) = lineTotal tc →
    ∃ t ls, pixelClocks (k + 1) s = .ok t ∧ Fetched tc h v ls ∧
      Scanned P tc s t 0 ((v + 1) % frameTotal tc) ls := by
  induction k with
  | zero =>
    intro s h hinv hs hend
    obtain ⟨t, ls, hclock, hls, hst⟩ := hs.pixelClock_scanned hinv fun u => by
      rw [advanceCounters_lineEnd v u hend hlines]
      exact ⟨rfl, rfl⟩
    exact ⟨t, ls, by rw [pixelClocks, hclock]; rfl, hls, hst⟩
  | succ k ih =>
    intro s h hinv hs hend
    obtain ⟨t, ls, hclock, hls, hst⟩ := hs.pixelClock_scanned hinv fun u => by
      rw [advanceCounters_inLine v u (by omega)]
      exact ⟨rfl, rfl⟩
    obtain ⟨u, ls', hclocks, hls', htu⟩ := ih hst.inv hst.counters (by omega)
    obtain rfl := hls'.eq_nil (Nat.succ_ne_zero h)
    exact ⟨u, ls, by rw [pixelClocks, hclock]; exact hclocks, hls,
      by simpa only [List.append_nil] using hst.trans htu⟩

/-- The events are the rows from 0 on in order, each with one line of pixels. -/
def RowsInOrder (tc : TimingConfig) (rows : List Event) : Prop :=
  ∀ y, y < rows.length → ∃ px, rows[y]? = some (.line y px) ∧ px.length = tc.hRes

theorem RowsInOrder.snoc {rows : List Event} {px : List Pixel} (hrows : RowsInOrder tc rows)
    (hlen : px.length = tc.hRes) : RowsInOrder tc (rows ++ [.line rows.length px]) := by
  intro y hy
  rw [List.length_append, List.length_singleton] at hy
  obtain hlt | rfl : y < rows.length ∨ y = rows.length := by omega
  · rw [List.getElem?_append_left hlt]
    exact hrows y hlt
  · exact ⟨px, List.getElem?_concat_length, hlen⟩

/-- The rows that the first `n` lines of a frame show, when the next line is added. -/
theorem RowsInOrder.append_fetched {n : Nat} {rows : List Event} (hrows : RowsInOrder tc rows)
    (hcount : rows.length = min (n - (tc.vsyncPw + tc.vbp)) tc.vRes) (hls : Fetched tc 0 n ls) :
    RowsInOrder tc (rows ++ ls) ∧
      (rows ++ ls).length = min (n + 1 - (tc.vsyncPw + tc.vbp)) tc.vRes := by
  cases hls with
  | @row y px _ hrow hlen =>
    obtain ⟨hy, hn⟩ := framePhase_eq_active_iff.mp hrow
    obtain rfl : y = rows.length := by omega
    exact ⟨hrows.snoc hlen, by rw [List.length_append, List.length_singleton]; omega⟩
  | nothing hout =>
    have hidle : ¬ (tc.vsyncPw + tc.vbp ≤ n ∧ n < tc.vsyncPw + tc.vbp + tc.vRes) := by
      rintro ⟨hlo, hhi⟩
      obtain hne | hout := hout
      · exact hne rfl
      · exact hout (n - (tc.vsyncPw + tc.vbp)) (framePhase_eq_active_iff.mpr (by omega))
    rw [List.append_nil]
    exact ⟨hrows, by omega⟩

/-- R182, R183: the first `n` lines of a frame. -/
theorem Scanning.lines (hinv : ParallelInv P s) (hs : Scanning s tc 0 0)
    (hclocks : 0 < lineTotal tc) (n : Nat) (hn : n ≤ frameTotal tc) :
    ∃ t rows, pixelClocks (lineTotal tc * n) s = .ok t ∧
      Scanned P tc s t 0 (n % frameTotal tc) rows ∧ RowsInOrder tc rows ∧
      rows.length = min (n - (tc.vsyncPw + tc.vbp)) tc.vRes := by
  induction n with
  | zero => exact ⟨s, [], rfl, by rw [Nat.zero_mod]; exact .refl hinv hs, nofun, by simp⟩
  | succ n ih =>
    obtain ⟨t, rows, hbefore, hst, hrows, hcount⟩ := ih (by omega)
    obtain ⟨k, hk⟩ : ∃ k, lineTotal tc = k + 1 := ⟨lineTotal tc - 1, by omega⟩
    have hrow := hst.counters
    rw [Nat.mod_eq_of_lt hn] at hrow
    obtain ⟨u, ls, hline, hls, htu⟩ :=
      hrow.restOfLine (by omega) k hst.inv (by rw [hk, Nat.zero_add])
    rw [← hk] at hline
    refine ⟨u, rows ++ ls, ?_, hst.trans htu, hrows.append_fetched hcount hls⟩
    rw [Nat.mul_succ, pixelClocks_add hbefore, hline]

end Frame

/-- Settles O43: all the lines of a frame, after which the row counter has wrapped. -/
theorem frameShowsEveryRow : Obligations.FrameShowsEveryRow := by
  intro P s tc hinv hstream htc hcol hrow hclocks _
  have hs : Scanning s tc 0 0 := ⟨hstream, htc, hcol, hrow⟩
  obtain ⟨t, rows, hrun, hst, hrows, hcount⟩ := hs.lines hinv hclocks _ le_rfl
  have hall : rows.length = tc.vRes := by
    rw [hcount, frameTotal]
    omega
  have hstart := hst.counters.row
  rw [Nat.mod_self] at hstart
  exact ⟨t, rows, hrun, hst.counters.column, hstart, hst.buffer, hst.trace, hall,
    fun y hy => hrows y (by rw [hall]; exact hy)⟩

end Sys2Proof.Machine

/-! The family 40_codec.md: the laws of the units and the three operations of the codec. -/

namespace Sys2Proof

/-! ## The laws of the codec (R113) -/

/-- The role bit tells the ranges of the two encoders apart. -/
theorem unitOf_false_ne_unitOf_true (b c : Byte) : unitOf false b ≠ unitOf true c := by
  intro h
  have hrole := congrArg unitRole h
  rw [unitRole_unitOf, unitRole_unitOf] at hrole
  exact Bool.false_ne_true hrole

theorem unitOf_injective (r : Bool) : Function.Injective (unitOf r) :=
  Function.LeftInverse.injective (unitByte_unitOf r)

theorem unitOf_unitByte {r : Bool} {u : Unit9} (h : unitRole u = r) :
    unitOf r (unitByte u) = u := by
  rw [← h, unitOf_role_byte]

/-- Settles O12: role and byte are the two parts of a unit, and `unitOf` puts them together. -/
theorem codecLaws : Obligations.CodecLaws :=
  ⟨fun b => ⟨unitRole_unitOf false b, unitByte_unitOf false b⟩,
    fun b => ⟨unitRole_unitOf true b, unitByte_unitOf true b⟩,
    fun _ => ⟨unitOf_unitByte, unitOf_unitByte⟩,
    unitOf_false_ne_unitOf_true, fun r _ _ h => unitOf_injective r h⟩

/-! ## The numbers of the units (R110, R111) -/

theorem unitOf_false_toNat (b : Byte) : (unitOf false b).toNat = b.toNat := by
  rw [unitOf_toNat, Bool.toNat_false, Nat.mul_zero, Nat.zero_add]

theorem unitOf_true_toNat (b : Byte) : (unitOf true b).toNat = 256 + b.toNat := by
  rw [unitOf_toNat, Bool.toNat_true, Nat.mul_one]

end Sys2Proof

namespace Sys2Proof.Machine

/-- R14: an instruction whose operation returns a value leads to the operation's state with that
value as the result. -/
theorem exec_ok {i : Instr} {v : Value} {s t : State} (h : opOf i s = .ok v t) :
    exec i s = .next { t with result := some (.ok v) } := by
  rw [exec_eq, h, finish]

/-- Settles O11: each operation only returns a value, and the unit is the one of its role. -/
theorem codecOperations : Obligations.CodecOperations :=
  ⟨fun b _ => ⟨unitOf false b, exec_ok rfl, unitOf_false_toNat b,
      unitRole_unitOf false b, unitByte_unitOf false b⟩,
    fun b _ => ⟨unitOf true b, exec_ok rfl, unitOf_true_toNat b,
      unitRole_unitOf true b, unitByte_unitOf true b⟩,
    fun _ _ => exec_ok rfl⟩

end Sys2Proof.Machine

/-! The family 41_transport.md: what `SEND` and `CLOSE` do on an open transport, and how far `SEND`,
`RUN` and `BRING_UP` come when a transaction never completes. -/

namespace Sys2Proof.Machine

/-! ## `CLOSE` (R128) -/

theorem closeOp_opened {s : State} (hopen : s.tState = .opened) :
    closeOp s = .ok .none (emit .busRelease { s with tState := .closed, busOwner := .free }) :=
  if_neg (not_not_intro hopen)

theorem closeOp_closed {s : State} (hclosed : s.tState = .closed) :
    closeOp s = .refuse .closeOnClosedTransport := if_pos (by simp [hclosed])

/-- Settles O17, by the two cases of `CLOSE`. -/
theorem closeFollowsRule : Obligations.CloseFollowsRule :=
  ⟨rfl, fun _ => ⟨fun hopen => exec_ok (i := .close) (closeOp_opened hopen),
    fun hclosed => exec_refused (i := .close) (closeOp_closed hclosed)⟩⟩

/-! ## `SEND` on an open transport (R124, R125, R203) -/

section Send

variable {s : State} {d : Nat} (P : Params) (u : Unit9)

theorem sendOp_full (hopen : s.tState = .opened) (hdepth : s.tQdepth = .val d)
    (hfull : d ≤ s.tOutstanding) :
    sendOp P u s = .err (.transportError .queueFull) s := by
  rw [sendOp, if_neg (not_not_intro hopen), hdepth]
  exact if_pos hfull

/-- With room in the queue the transaction is submitted, and its end is up to the environment. -/
theorem sendOp_room (hopen : s.tState = .opened) (hdepth : s.tQdepth = .val d)
    (hroom : s.tOutstanding < d) :
    sendOp P u s = transact P u s.draws.nextTx.1 (setDraws s.draws.nextTx.2 (submit u s)) := by
  rw [sendOp, if_neg (not_not_intro hopen), hdepth]
  exact if_neg (Nat.not_le_of_lt hroom)

/-- R203: what a transaction that fails after its submission leaves. -/
theorem failTransaction_submitted (cause : TxCause) (q : Draws) (s : State) :
    failTransaction u cause (setDraws q (submit u s)) = .err (.transportError cause)
      { s with
        txsr := .val u, trace := s.trace ++ [.txFault u], panel := .undefined, draws := q } := rfl

theorem sendOp_completes (hopen : s.tState = .opened) (hdepth : s.tQdepth = .val d)
    (hroom : s.tOutstanding < d) (htx : s.draws.nextTx.1 = ⟨false, false⟩) :
    sendOp P u s = .ok .none { s with
      txsr := .val u, trace := s.trace ++ [.frame u],
      panel := if s.prgState = .running then s.panel else .undefined,
      draws := s.draws.nextTx.2 } := by
  have hend : ∀ t, transact P u ⟨false, false⟩ t = completeTransaction u t := fun _ => rfl
  rw [sendOp_room P u hopen hdepth hroom, htx, hend, completeTransaction, panelAfterFrame_eq]
  rfl

theorem sendOp_timeout (hopen : s.tState = .opened) (hdepth : s.tQdepth = .val d)
    (hroom : s.tOutstanding < d) (hhang : s.draws.nextTx.1.hang = true)
    (htimeout : P.txTimeout ≠ none) :
    sendOp P u s = .err (.transportError .timeout) { s with
      txsr := .val u, trace := s.trace ++ [.txFault u], panel := .undefined,
      draws := s.draws.nextTx.2 } := by
  obtain ⟨limit, hlimit⟩ := Option.ne_none_iff_exists'.mp htimeout
  rw [sendOp_room P u hopen hdepth hroom, transact, if_pos hhang, hlimit]
  exact failTransaction_submitted u .timeout _ s

theorem sendOp_deviceFault (hopen : s.tState = .opened) (hdepth : s.tQdepth = .val d)
    (hroom : s.tOutstanding < d) (hhang : s.draws.nextTx.1.hang = false)
    (hfault : s.draws.nextTx.1.fault = true) :
    sendOp P u s = .err (.transportError .deviceFault) { s with
      txsr := .val u, trace := s.trace ++ [.txFault u], panel := .undefined,
      draws := s.draws.nextTx.2 } := by
  rw [sendOp_room P u hopen hdepth hroom, transact, if_neg (by simp [hhang]), if_pos hfault,
    failTransaction_submitted]

/-- R222: without a time-out a hung transaction stays outstanding. -/
theorem sendOp_hung (hopen : s.tState = .opened) (hdepth : s.tQdepth = .val d)
    (hroom : s.tOutstanding < d) (hhang : s.draws.nextTx.1.hang = true)
    (htimeout : P.txTimeout = none) :
    sendOp P u s = .stuck { s with
      tOutstanding := s.tOutstanding + 1, txsr := .val u, draws := s.draws.nextTx.2 } := by
  rw [sendOp_room P u hopen hdepth hroom, transact, if_pos hhang, htimeout]
  rfl

end Send

/-- Settles O14: the wire frames are the `SEND` of their unit. -/
theorem sendCompletes : Obligations.SendCompletes := by
  intro s d hopen hdepth hroom htx
  have hsend (u : Unit9) := sendOp_completes Config.params u hopen hdepth hroom htx
  exact ⟨fun u => exec_ok (i := .send u) (hsend u), fun b => exec_ok (i := .cmd b) (hsend _),
    fun b => exec_ok (i := .data b) (hsend _)⟩

/-- Settles O15, by the three failing ends of `SEND`. -/
theorem sendFailures : Obligations.SendFailures := by
  refine ⟨fun s u => exec_eq (.send u) s,
    fun s b => ⟨exec_eq (.cmd b) s, exec_eq (.data b) s⟩, fun P s u d hopen hdepth => ?_⟩
  refine ⟨fun hfull => ?_, fun hroom hhang htimeout => ?_, fun hroom hhang hfault => ?_⟩
  · rw [sendOp_full P u hopen hdepth hfull, finish]
  · rw [sendOp_timeout P u hopen hdepth hroom hhang htimeout, finish]
  · rw [sendOp_deviceFault P u hopen hdepth hroom hhang hfault, finish]

/-! ## `RUN` up to a hung transaction (R137, R222) -/

section Steps

variable {s : State} {d n : Nat} {P : Params}

/-- The frame of index `n` of a list of steps, with the steps before it and after it. -/
theorem exists_send_of_lt_sentUnits : ∀ (steps : List ProgramStep) {n : Nat},
    n < (sentUnits steps).length →
    ∃ before u after, steps = before ++ .send u :: after ∧ (sentUnits before).length = n
  | .send u :: rest, 0, _ => ⟨[], u, rest, rfl, rfl⟩
  | .send v :: rest, n + 1, h => by
    obtain ⟨before, u, after, hsplit, hlen⟩ :=
      exists_send_of_lt_sentUnits rest (Nat.lt_of_succ_lt_succ h)
    exact ⟨.send v :: before, u, after, by rw [hsplit]; rfl, congrArg (· + 1) hlen⟩
  | .delay t :: rest, n, h => by
    obtain ⟨before, u, after, hsplit, hlen⟩ := exists_send_of_lt_sentUnits rest h
    exact ⟨.delay t :: before, u, after, by rw [hsplit]; rfl, hlen⟩

/-- The state of a running program sequencer after `steps` have completed, each frame with one
transaction; the shifter keeps the unit of the last one. -/
def afterSteps (steps : List ProgramStep) (s : State) : State :=
  { s with
    txsr := (sentUnits steps).foldl (fun _ u => .val u) s.txsr,
    draws := drawsAfter (sentUnits steps).length s.draws,
    prgPc := s.prgPc + steps.length,
    trace := s.trace ++ steps.map ProgramStep.event }

theorem afterSteps_nil (s : State) : afterSteps [] s = s := by
  simp [afterSteps, sentUnits, drawsAfter]

theorem afterSteps_send (u : Unit9) (rest : List ProgramStep) (s : State) :
    afterSteps (.send u :: rest) s = afterSteps rest (advanceProgram
      { s with txsr := .val u, trace := s.trace ++ [.frame u], draws := s.draws.nextTx.2 }) := by
  simp [afterSteps, sentUnits, drawsAfter, advanceProgram, ProgramStep.event, Nat.add_assoc,
    Nat.add_comm 1]

theorem afterSteps_delay (t : Ms) (rest : List ProgramStep) (s : State) :
    afterSteps (.delay t :: rest) s = afterSteps rest (advanceProgram (emit (.wait t) s)) := by
  simp [afterSteps, sentUnits, advanceProgram, emit, ProgramStep.event, Nat.add_assoc,
    Nat.add_comm 1]

/-- R137: steps whose transactions the environment lets complete are done one after another. -/
theorem runSteps_append (after : List ProgramStep) : ∀ (before : List ProgramStep) {s : State},
    s.tState = .opened → s.tQdepth = .val d → s.tOutstanding < d → s.prgState = .running →
    allComplete (sentUnits before).length s.draws →
    runSteps P (before ++ after) s = runSteps P after (afterSteps before s)
  | [], s, _, _, _, _, _ => by rw [afterSteps_nil]; rfl
  | .send u :: rest, s, hopen, hdepth, hroom, hrun, ⟨htx, hrest⟩ => by
    have hsend := sendOp_completes P u hopen hdepth hroom htx
    rw [if_pos hrun] at hsend
    rw [List.cons_append, runSteps, hsend, afterSteps_send]
    exact runSteps_append after rest hopen hdepth hroom hrun hrest
  | .delay t :: rest, s, hopen, hdepth, hroom, hrun, hrest => by
    rw [afterSteps_delay]
    exact runSteps_append after rest (s := advanceProgram (emit (.wait t) s)) hopen hdepth hroom
      hrun hrest

theorem drawsAfter_succ : ∀ (n : Nat) (q : Draws),
    drawsAfter (n + 1) q = (drawsAfter n q).nextTx.2
  | 0, _ => rfl
  | n + 1, q => drawsAfter_succ n q.nextTx.2

/-- R138: the ghost at the start of a `RUN`. -/
theorem panelAtRunStart_eq (s : State) : panelAtRunStart s =
    { s with panel := if s.panel = .reset then .programming else .undefined } := by
  unfold panelAtRunStart
  split
  · next h => rw [if_pos h]
  · next h => rw [if_neg h]

/-- R137, R138: the state in which a `RUN` does its first step. -/
def runStart (s : State) : State :=
  { s with
    prgState := .running, prgPc := 0,
    panel := if s.panel = .reset then .programming else .undefined }

theorem runOp_opened (hopen : s.tState = .opened) :
    runOp P s = (runSteps P (programSteps P) (runStart s)).call fun t =>
      .ok .none (panelAtRunEnd (endProgram t)) := by
  rw [runOp, if_neg (not_not_intro hopen), panelAtRunStart_eq]
  rfl

/-- R222, R137 (c): a `RUN` of which transaction `n` hangs is stuck at the step of that
transaction. -/
theorem runOp_hung (hopen : s.tState = .opened) (hdepth : s.tQdepth = .val d)
    (hroom : s.tOutstanding < d) (hn : n < programFrames P) (hall : allComplete n s.draws)
    (hhang : (drawsAfter n s.draws).nextTx.1.hang = true) (htimeout : P.txTimeout = none) :
    ∃ k u, (programSteps P)[k]? = some (.send u) ∧
      (sentUnits ((programSteps P).take k)).length = n ∧
      runOp P s = .stuck { s with
        tOutstanding := s.tOutstanding + 1, txsr := .val u,
        draws := drawsAfter (n + 1) s.draws, prgPc := k, prgState := .running,
        panel := if s.panel = .reset then .programming else .undefined,
        trace := s.trace ++ ((programSteps P).take k).map ProgramStep.event } := by
  obtain ⟨before, u, after, hsplit, rfl⟩ := exists_send_of_lt_sentUnits (programSteps P) hn
  have htake : (programSteps P).take before.length = before := by rw [hsplit, List.take_left]
  refine ⟨before.length, u, by simp [hsplit], by rw [htake], ?_⟩
  have hsend := sendOp_hung P u (s := afterSteps before (runStart s)) hopen hdepth hroom hhang
    htimeout
  rw [runOp_opened hopen, htake, hsplit,
    runSteps_append (s := runStart s) _ before hopen hdepth hroom rfl hall, runSteps, hsend]
  simp [convertSend, OpOut.call, afterSteps, runStart, drawsAfter_succ]

end Steps

/-! ## A first `BRING_UP` up to its `RUN` (R156, R190, R191) -/

section Prelude

variable {P : Params} {s t : State} {v : Value} {f g : State → OpOut} {rest : List (State → OpOut)}

/-- R156: without streaming a call that ends `ok` is followed by the next one. -/
theorem inSequence_next (hf : f s = .ok v t) (hidle : t.pState ≠ .streaming) :
    inSequence (f :: g :: rest) s = inSequence (g :: rest) t := by
  rw [inSequence, hf, OpOut.call, seam_idle hidle, afterPart]

/-- R190: a step that is not the last is followed by a seam and the steps that are left. -/
theorem bringUpSteps_cons (hrest : rest ≠ []) :
    bringUpSteps (f :: rest) s =
      afterStep (f s) fun t => afterPart (seam t) fun u => bringUpSteps rest u := by
  cases rest with
  | nil => exact absurd rfl hrest
  | cons g tail => rfl

/-- R190: without streaming a step that ends `ok` is followed by the next one. -/
theorem bringUpSteps_next (hf : f s = .ok v t) (hidle : t.pState ≠ .streaming) :
    bringUpSteps (f :: g :: rest) s = bringUpSteps (g :: rest) (advanceBringUp t) := by
  rw [bringUpSteps_cons (by simp), hf, afterStep, seam_idle (s := advanceBringUp t) hidle,
    afterPart]

theorem delayOp_ok (d : Ms) (s : State) : delayOp d s = .ok .none (emit (.wait d) s) := rfl

/-- R156: the six calls on the shared pin, without streaming. -/
theorem resetCalls_idle (hrole : s.role = .digitalResetOutput) (hidle : s.pState ≠ .streaming) :
    inSequence (resetCalls P P.pinShared) s = .ok .none
      { s with
        rstLevel := .val true, panel := .unknown,
        trace := s.trace ++ resetEvents P.pinShared } := by
  rw [resetCalls, inSequence_next (setLevelOp_shared true ?_) ?_,
    inSequence_next (delayOp_ok _ _) ?_, inSequence_next (setLevelOp_shared false ?_) ?_,
    inSequence_next (delayOp_ok _ _) ?_, inSequence_next (setLevelOp_shared true ?_) ?_]
  · simp [inSequence, delayOp, emit, panelAfterResetLine, resetEvents, Config.tRstHigh1,
      Config.tRstLow, Config.tRstHigh2]
  all_goals simp [hrole, hidle]

/-- R157: the whole reset sequence on the shared pin, without streaming. -/
theorem timedResetOp_idle (hrole : s.role = .digitalResetOutput) (hidle : s.pState ≠ .streaming) :
    timedResetOp P P.pinShared s = .ok .none
      { s with
        rstLevel := .val true, panel := .reset,
        trace := s.trace ++ resetEvents P.pinShared } := by
  rw [timedResetOp, resetCalls_idle hrole hidle, OpOut.call, panelAfterResetSequence, if_pos rfl]

/-- R151, R152: the shared pin as the reset output, before its hand-off. -/
theorem configureOutputOp_shared (hrole : s.role ≠ .hardwareSyncSignal) :
    configureOutputOp P P.pinShared s = .ok (.handle P.pinShared)
      { s with
        role := .digitalResetOutput,
        trace := s.trace ++
          if s.role = .unassigned then [.role P.pinShared .digitalResetOutput] else [] } := by
  rw [configureOutputOp, if_pos rfl]
  cases h : s.role with
  | unassigned => simp [emit]
  | digitalResetOutput =>
    have hsame : { s with role := .digitalResetOutput } = s := by rw [← h]
    simp [hsame]
  | hardwareSyncSignal => exact absurd h hrole

theorem configureOutputOp_backlight (hne : P.pinBl ≠ P.pinShared) :
    configureOutputOp P P.pinBl s = .ok (.handle P.pinBl) { s with blCfg := true } := by
  rw [configureOutputOp, if_neg hne, if_pos rfl]

theorem openOp_free {bus : BusId} {clk mode : Nat} {sel : PinId} {depth : Nat}
    (hfree : s.busOwner = .free) (hvalid : P.pinValid sel = true) :
    openOp P bus clk mode sel depth s = .ok .none
      { s with
        busOwner := .serial, tState := .opened, tBus := .val bus, tClockHz := .val clk,
        tMode := .val mode, tSelect := .val sel, tQdepth := .val depth, tOutstanding := 0,
        trace := s.trace ++ [.busClaim .serial] } := by
  rw [openOp, if_neg (not_not_intro hfree), if_neg (by simp [hvalid])]
  rfl

/-- R191: the state in which a first `BRING_UP` comes to its `RUN`. -/
def beforeRun (P : Params) (s : State) : State :=
  { s with
    buState := .running, buStep := 5, blCfg := true, blLevel := .val (!P.blOnLevel),
    role := .digitalResetOutput, rstLevel := .val true, panel := .reset,
    busOwner := .serial, tState := .opened, tBus := .val P.serBus,
    tClockHz := .val Config.serClockHz, tMode := .val Config.serMode,
    tSelect := .val P.pinSelect, tQdepth := .val Config.serQueueDepth, tOutstanding := 0,
    trace := s.trace ++
      (if s.role = .unassigned then [.role P.pinShared .digitalResetOutput] else []) ++
      [.level P.pinBl (!P.blOnLevel)] ++ resetEvents P.pinShared ++ [.busClaim .serial] }

/-- R191: the first five steps end `ok` where pins, bus and interface are as after reset. -/
theorem bringUpSteps_toRun (hpins : P.PinsDistinct) (hvalid : P.pinValid P.pinSelect = true)
    (hfree : s.busOwner = .free) (hidle : s.pState ≠ .streaming)
    (hrole : s.role ≠ .hardwareSyncSignal) :
    bringUpSteps (bringUpTable P) (startBringUp s) =
      bringUpSteps ((bringUpTable P).drop 5) (beforeRun P s) := by
  have hne : P.pinBl ≠ P.pinShared := Ne.symm hpins.1
  rw [bringUpTable, bringUpSteps_next (configureOutputOp_backlight hne) ?_,
    bringUpSteps_next (configureOutputOp_shared ?_) ?_,
    bringUpSteps_next (setLevelOp_backlight (!P.blOnLevel) hne ?_) ?_,
    bringUpSteps_next (timedResetOp_idle ?_ ?_) ?_,
    bringUpSteps_next (openOp_free ?_ hvalid) ?_]
  · simp [beforeRun, startBringUp, advanceBringUp, emit]
  all_goals simp [hidle, hrole, hfree]

/-- R190 (a): the `RUN` of a first `BRING_UP` that is stuck is the end of the `BRING_UP`. -/
theorem bringUpOp_stuck (hpins : P.PinsDistinct) (hvalid : P.pinValid P.pinSelect = true)
    (hfirst : s.buState = .idle) (hfree : s.busOwner = .free) (hidle : s.pState ≠ .streaming)
    (hrole : s.role ≠ .hardwareSyncSignal) (hrun : runOp P (beforeRun P s) = .stuck t) :
    bringUpOp P s = .stuck t := by
  have hdrop : (bringUpTable P).drop 5 = runOp P :: (bringUpTable P).drop 6 := rfl
  rw [bringUpOp, if_neg (not_not_intro hfirst), bringUpSteps_toRun hpins hvalid hfree hidle hrole,
    hdrop, bringUpSteps_cons (by simp [bringUpTable]), hrun, afterStep, OpOut.call]

end Prelude

/-! ## Where a `BRING_UP` can be stuck (R190, R222) -/

/-- From `s` to `t` the thread went on inside an operation: nothing was returned, the master
sequencer was left alone, and no event switched the backlight on. -/
structure Dark (P : Params) (s t : State) : Prop where
  thread : t.thread = s.thread
  result : t.result = s.result
  master : masterView t = masterView s
  events : ∃ new, t.trace = s.trace ++ new ∧ .level P.pinBl P.blOnLevel ∉ new

/-- The operation keeps the backlight off and is never stuck. -/
def KeepsDark (P : Params) (f : State → OpOut) : Prop :=
  ∀ s, (f s).Leaves (Dark P s) (fun _ => False) True

section InBringUp

variable {P : Params} {s t u : State}

/-- A change that appends no event. -/
theorem Dark.of_silent (hthread : t.thread = s.thread) (hresult : t.result = s.result)
    (hmaster : masterView t = masterView s) (htrace : t.trace = s.trace) : Dark P s t :=
  ⟨hthread, hresult, hmaster, [], by rw [htrace, List.append_nil], by simp⟩

theorem Dark.refl (s : State) : Dark P s s := .of_silent rfl rfl rfl rfl

theorem Dark.trans (h : Dark P s t) (k : Dark P t u) : Dark P s u := by
  obtain ⟨first, htrace, hfirst⟩ := h.events
  obtain ⟨second, ktrace, hsecond⟩ := k.events
  exact ⟨k.thread.trans h.thread, k.result.trans h.result, k.master.trans h.master,
    first ++ second, by rw [ktrace, htrace, List.append_assoc], by simp [hfirst, hsecond]⟩

/-- The engine appends `Line` events only. -/
theorem EngineOnly.dark (h : EngineOnly s t) : Dark P s t := by
  obtain ⟨lines, hlines, htrace⟩ := h.lines
  exact ⟨by rw [h.frame]; rfl, by rw [h.frame]; rfl, by rw [h.frame]; rfl, lines, htrace,
    fun hmem => by cases hlines _ hmem⟩

theorem KeepsDark.after {f : State → OpOut} (hf : KeepsDark P f) (h : Dark P s t) :
    (f t).Leaves (Dark P s) (fun _ => False) True :=
  (hf t).mono (fun _ _ => h.trans) (fun _ _ => h.trans) (fun _ => id) (fun _ => id) fun _ => id

/-! ### The steps before the `RUN` -/

theorem delayOp_dark (d : Ms) : KeepsDark P (delayOp d) :=
  fun _ => ⟨rfl, rfl, rfl, [.wait d], rfl, by simp⟩

theorem configureOutputOp_dark (pin : PinId) : KeepsDark P (configureOutputOp P pin) := by
  intro s
  refine (configureOutputOp_ends P pin s).mono ?_ ?_ (fun _ => id) (fun _ _ => trivial)
    fun _ _ => trivial
  · rintro v t ⟨-, ⟨-, -, rfl⟩ | ⟨-, -, rfl⟩ | ⟨-, -, rfl⟩⟩
    · exact ⟨rfl, rfl, rfl, [.role P.pinShared .digitalResetOutput], rfl, by simp⟩
    · exact .refl _
    · exact .of_silent rfl rfl rfl rfl
  · rintro e t ⟨-, -, -, rfl⟩
    exact .refl _

theorem setLevelOp_dark {pin : PinId} {l : Level}
    (hoff : Event.level pin l ≠ .level P.pinBl P.blOnLevel) : KeepsDark P (setLevelOp P pin l) := by
  intro s
  have hnew : Event.level P.pinBl P.blOnLevel ∉ [Event.level pin l] :=
    fun hmem => hoff (List.mem_singleton.mp hmem).symm
  refine (setLevelOp_ends P pin l s).mono ?_ ?_ (fun _ => id) (fun _ _ => trivial)
    fun _ _ => trivial
  · rintro v t ⟨-, ⟨-, -, rfl⟩ | ⟨-, -, -, rfl⟩⟩
    · exact ⟨rfl, rfl, rfl, _, rfl, hnew⟩
    · exact ⟨rfl, rfl, rfl, _, rfl, hnew⟩
  · rintro e t ⟨-, -, -, rfl⟩
    exact .refl _

/-- R150, R156: the reset sequence of the shared pin sets no level of the backlight pin. -/
theorem timedResetOp_dark (hne : P.pinShared ≠ P.pinBl) :
    KeepsDark P (timedResetOp P P.pinShared) := by
  intro s
  have hcalls : ∀ f ∈ resetCalls P P.pinShared, KeepsDark P f := by
    intro f hf
    obtain ⟨l, rfl⟩ | ⟨d, rfl⟩ := mem_resetCalls hf
    · exact setLevelOp_dark fun h => hne (Event.level.inj h).1
    · exact delayOp_dark d
  refine (inSequence_leaves (fun _ _ ht hu => ht.trans (seam_engine hu).dark)
    (fun _ _ _ _ => trivial) _ (fun f hf _ ht => (hcalls f hf).after ht) s (.refl s)).call
    fun t ht => ht.trans ?_
  rw [panelAfterResetSequence_eq]
  exact .of_silent rfl rfl rfl rfl

theorem openOp_dark (bus : BusId) (clk mode : Nat) (sel : PinId) (depth : Nat) :
    KeepsDark P (openOp P bus clk mode sel depth) := by
  intro s
  refine (openOp_ends P bus clk mode sel depth s).mono ?_ ?_ (fun _ => id) (fun _ _ => trivial)
    fun _ _ => trivial
  · rintro v t ⟨-, -, -, rfl⟩
    exact ⟨rfl, rfl, rfl, [.busClaim .serial], rfl, by simp⟩
  · rintro e t ⟨-, rfl⟩
    exact .refl _

/-- R150: the first five steps of a `BRING_UP` leave the backlight off. -/
theorem bringUpTable_dark (hpins : P.PinsDistinct) :
    ∀ f ∈ (bringUpTable P).take 5, KeepsDark P f := by
  simp only [bringUpTable, List.take_succ_cons, List.take_zero, List.forall_mem_cons,
    List.not_mem_nil, false_imp_iff, implies_true, and_true]
  exact ⟨configureOutputOp_dark _, configureOutputOp_dark _, setLevelOp_dark (by simp),
    timedResetOp_dark hpins.1, openOp_dark _ _ _ _ _⟩

/-! ### The steps after the `RUN` -/

/-- The operation is never stuck, and leaves a running thread running. -/
def NeverStuck (f : State → OpOut) : Prop :=
  ∀ s, s.thread = .running → (f s).Leaves (fun t => t.thread = .running) (fun _ => False) True

theorem closeOp_neverStuck : NeverStuck closeOp := fun s hrun =>
  (closeOp_ends s).mono (by rintro v t ⟨-, -, rfl⟩; exact hrun) (fun _ _ => False.elim)
    (fun _ => id) (fun _ _ => trivial) fun _ _ => trivial

theorem pConfigureOp_neverStuck (tc : TimingConfig) (width : Nat) (pl : Placement)
    (pins : List PinId) : NeverStuck (pConfigureOp P tc width pl pins) := fun s hrun =>
  (pConfigureOp_ends P tc width pl pins s).mono
    (by rintro v t ⟨-, -, -, -, -, -, -, -, -, rfl⟩; exact hrun)
    (by rintro e t ⟨-, rfl⟩; exact hrun) (fun _ => id) (fun _ _ => trivial) fun _ _ => trivial

theorem pResetOp_neverStuck : NeverStuck pResetOp := fun s hrun =>
  (pResetOp_ends s).mono (by rintro v t ⟨-, -, rfl⟩; exact hrun) (fun _ _ => False.elim)
    (fun _ => id) (fun _ _ => trivial) fun _ _ => trivial

theorem pInitOp_neverStuck : NeverStuck pInitOp := fun s hrun =>
  (pInitOp_ends s).mono (by rintro v t ⟨-, -, rfl⟩; exact hrun) (fun _ _ => False.elim)
    (fun _ => id) (fun _ _ => trivial) fun _ _ => trivial

theorem setLevelOp_neverStuck (pin : PinId) (l : Level) : NeverStuck (setLevelOp P pin l) :=
  fun s hrun => (setLevelOp_ends P pin l s).mono
    (by rintro v t ⟨-, ⟨-, -, rfl⟩ | ⟨-, -, -, rfl⟩⟩; exacts [hrun, hrun])
    (by rintro e t ⟨-, -, -, rfl⟩; exact hrun) (fun _ => id) (fun _ _ => trivial)
    fun _ _ => trivial

theorem bringUpTable_neverStuck : ∀ f ∈ (bringUpTable P).drop 6, NeverStuck f := by
  simp only [bringUpTable, List.drop_succ_cons, List.drop_zero, List.forall_mem_cons,
    List.not_mem_nil, false_imp_iff, implies_true, and_true]
  exact ⟨closeOp_neverStuck, pConfigureOp_neverStuck _ _ _ _, pResetOp_neverStuck,
    pInitOp_neverStuck, setLevelOp_neverStuck _ _⟩

/-! ### The whole `BRING_UP` -/

/-- R190, R23: steps before the last one that keep `p`, counted from `k`, hand it on to the steps
after them; their errors and theirs only end the whole early. -/
theorem bringUpSteps_append_leaves {p : Nat → State → Prop} {q w : State → Prop} {F : Prop}
    {g : State → OpOut} {after : List (State → OpOut)}
    (hseam : ∀ k s t, p k s → seam s = .ok t → p k t)
    (hfault : ∀ k s y, p k s → seam s = .error y → F)
    (hadv : ∀ k s, p k s → p (k + 1) (advanceBringUp s))
    (hfail : ∀ k e s, p k s → q (failBringUp e s)) :
    ∀ (before : List (State → OpOut)) {k : Nat} {s : State},
      (∀ f ∈ before, ∀ j t, p j t → (f t).Leaves (p j) w F) →
      (∀ t, p (k + before.length) t → (bringUpSteps (g :: after) t).Leaves q w F) →
      p k s → (bringUpSteps (before ++ g :: after) s).Leaves q w F
  | [], _, _, _, hafter, hs => hafter _ hs
  | f :: rest, k, s, hbefore, hafter, hs => by
    rw [List.cons_append, bringUpSteps_cons (by simp)]
    refine afterStep_ends (hbefore f (by simp) k s hs) (fun _ t ht => ?_)
      (fun e t ht => hfail k e t ht) (fun _ => id) (fun _ => id) fun _ => id
    refine afterPart_ends (fun u hu => ?_) fun y hy => hfault _ _ y (hadv k t ht) hy
    refine bringUpSteps_append_leaves hseam hfault hadv hfail rest
      (fun g hg => hbefore g (List.mem_cons_of_mem _ hg)) (fun x hx => hafter x ?_)
      (hseam _ _ _ (hadv k t ht) hu)
    rwa [List.length_cons, Nat.add_comm rest.length, ← Nat.add_assoc]

/-- R190: `s` as a `BRING_UP` from it has it at step `k`, as far as the master sequencer goes. -/
def atStep (k : Nat) (s : State) : State := { startBringUp s with buStep := k }

/-- R190 (a): a `BRING_UP` from `s` is stuck in its `RUN` at `t`. -/
structure StuckInRun (P : Params) (s t : State) : Prop where
  timeout : P.txTimeout = none
  dark    : Dark P (atStep 5 s) t
  program : t.prgState = .running

/-- R190: an `ok` step moves on to the next one. -/
theorem Dark.advanceBringUp {k : Nat} (h : Dark P (atStep k s) t) :
    Dark P (atStep (k + 1) s) (advanceBringUp t) := by
  have hmaster := h.master
  simp only [masterView, Prod.mk.injEq] at hmaster
  obtain ⟨hk, hstate, herr⟩ := hmaster
  refine ⟨h.thread, h.result, ?_, h.events⟩
  simp [masterView, hk, hstate, herr, atStep]

/-- R145: the events of the program's steps are frames and waits. -/
theorem programEvents_dark (steps : List ProgramStep) :
    Event.level P.pinBl P.blOnLevel ∉ steps.map ProgramStep.event := by
  intro hmem
  obtain ⟨step, -, hstep⟩ := List.mem_map.mp hmem
  cases step with
  | send u => cases hstep
  | delay d => cases hstep

/-- R222: the end of the `RUN` at step 5; it is stuck only for want of a time-out. -/
theorem runOp_inBringUp (hrun : s.thread = .running) (h : Dark P (atStep 5 s) t) :
    (runOp P t).Leaves (fun u => u.thread = .running) (StuckInRun P s) True := by
  have hthread : t.thread = .running := h.thread.trans hrun
  refine (runOp_ends P t).mono ?_ ?_ ?_ (fun _ _ => trivial) fun _ _ => trivial
  · rintro v u ⟨-, -, hu⟩
    rw [hu]; exact hthread
  · rintro e u ⟨-, k, cause, unit, -, -, hu⟩
    rw [hu]; exact hthread
  · rintro u ⟨htimeout, -, k, unit, -, -, hu⟩
    rw [hu]
    exact ⟨htimeout, h.trans ⟨rfl, rfl, rfl, _, rfl, programEvents_dark _⟩, rfl⟩

/-- R190: from its `RUN` on a `BRING_UP` is stuck in the `RUN` or not at all. -/
theorem bringUpSteps_fromRun (hrun : s.thread = .running) (h : Dark P (atStep 5 s) t) :
    (bringUpSteps (runOp P :: (bringUpTable P).drop 6) t).Leaves
      (fun u => u.thread = .running) (StuckInRun P s) True := by
  refine afterStep_ends (runOp_inBringUp hrun h) (fun _ u hu => ?_) (fun _ _ => id)
    (fun _ => id) (fun _ => id) fun _ => id
  refine afterPart_ends (fun x hx => ?_) fun _ _ => trivial
  have hkept : ∀ {a b : State}, a.thread = .running → seam a = .ok b → b.thread = .running :=
    fun ha hb => ((seam_engine hb).dark (P := P)).thread.trans ha
  exact (bringUpSteps_leaves (fun _ _ => hkept) (fun _ _ _ _ => trivial) (fun _ => id)
    (fun _ _ => id) _ (fun f hf _ ha => bringUpTable_neverStuck f hf _ ha) x
    (hkept (a := Machine.advanceBringUp u) hu hx)).mono (fun _ _ => id) (fun _ _ => id)
    (fun _ => False.elim) (fun _ => id) fun _ => id

/-- R190 (a): a `BRING_UP` that is stuck is stuck in its `RUN`. -/
theorem bringUpOp_stuckInRun (hpins : P.PinsDistinct) (hrun : s.thread = .running) :
    (bringUpOp P s).Leaves (fun u => u.thread = .running) (StuckInRun P s) True := by
  unfold bringUpOp
  split
  · trivial
  · have hsplit : bringUpTable P = (bringUpTable P).take 5 ++ runOp P :: (bringUpTable P).drop 6 :=
      rfl
    rw [hsplit]
    refine OpOut.Leaves.call (bringUpSteps_append_leaves (k := 0)
      (p := fun k => Dark P (atStep k s))
      (fun _ _ _ ht hu => ht.trans (seam_engine hu).dark) (fun _ _ _ _ _ => trivial)
      (fun _ _ => Dark.advanceBringUp) (fun _ _ _ ht => ht.thread.trans hrun) _
      (fun f hf _ _ ht => ?_) (fun _ => bringUpSteps_fromRun hrun) (.refl _)) fun _ => id
    exact ((bringUpTable_dark hpins f hf).after ht).mono (fun _ _ => id) (fun _ _ => id)
      (fun _ => False.elim) (fun _ => id) fun _ => id

end InBringUp

/-- Settles O16: `SEND` and `RUN` are stuck at the hung transaction; a `BRING_UP` comes to its `RUN`
with the backlight off, and can be stuck nowhere else. -/
theorem hungTransactionIsStuck : Obligations.HungTransactionIsStuck := by
  refine ⟨fun P s u d hopen hdepth hroom hhang htimeout => ?_,
    fun P s d n hopen hdepth hroom hn hall hhang htimeout => ?_,
    fun P s n hpins hvalid hfirst hfree hunconf hrole hn hall hhang htimeout => ?_,
    fun P s t hpins hrun ht hstuck => ?_⟩
  · rw [sendOp_hung P u hopen hdepth hroom hhang htimeout, finish]
  · obtain ⟨k, u, hk, hlen, hrun⟩ := runOp_hung hopen hdepth hroom hn hall hhang htimeout
    exact ⟨k, u, hk, hlen, by rw [hrun, finish]⟩
  · obtain ⟨k, u, -, -, hrun⟩ := runOp_hung (s := beforeRun P s) rfl rfl
      (show 0 < Config.serQueueDepth by decide) hn hall hhang htimeout
    have hend := bringUpOp_stuck hpins hvalid hfirst hfree (by simp [hunconf]) hrole hrun
    exact ⟨_, congrArg finish hend, rfl, rfl, rfl⟩
  · obtain ⟨v, u, hu, rfl⟩ | ⟨e, u, hu, rfl⟩ | ⟨u, hu, rfl⟩ :=
      (bringUpOp_stuckInRun hpins hrun).of_finish ht
    · cases hu.symm.trans hstuck
    · cases hu.symm.trans hstuck
    · obtain ⟨htimeout, hdark, hprogram⟩ := hu
      have hmaster := hdark.master
      simp only [masterView, Prod.mk.injEq] at hmaster
      obtain ⟨hstep, hstate, herr⟩ := hmaster
      exact ⟨htimeout, hstate, hstep, hprogram, herr, hdark.result, hdark.events⟩

end Sys2Proof.Machine

/-! The family 42_program.md: how a `RUN` ends and what it leaves, `DELAY`, the reset sequence
beside the running engine, and the error kind of every instruction. -/

namespace Sys2Proof.Machine

/-! ## A `RUN` whose transactions complete (R137, R141) -/

section Complete

variable {P : Params} {s : State} {d : Nat}

/-- R136: the frames of a `RUN` are those of the table and the two closing commands. -/
theorem sentUnits_programSteps (P : Params) :
    sentUnits (programSteps P) =
      P.regProgram.flatMap Entry.frames ++
        [unitOf false P.cmdSleepOut, unitOf false P.cmdDisplayOn] := by
  rw [programSteps_eq, sentUnits_append_sends]
  rfl

/-- R21: after the whole program the shifter holds its last unit, the display-on command. -/
theorem afterSteps_programSteps (P : Params) (s : State) :
    afterSteps (programSteps P) s = { s with
      txsr := .val (unitOf false P.cmdDisplayOn),
      draws := drawsAfter (programFrames P) s.draws,
      prgPc := s.prgPc + programLen P,
      trace := s.trace ++ (programSteps P).map ProgramStep.event } := by
  have hlast : (sentUnits (programSteps P)).foldl (fun _ u => .val u) s.txsr =
      .val (unitOf false P.cmdDisplayOn) := by
    rw [sentUnits_programSteps, List.foldl_append]
    rfl
  rw [afterSteps, hlast]
  rfl

/-- R141: the ghost at the end of a `RUN`. -/
theorem panelAtRunEnd_eq (s : State) : panelAtRunEnd s =
    { s with panel := if s.panel = .programming then .programmed else s.panel } := by
  unfold panelAtRunEnd
  split
  · next h => rw [if_pos h]
  · next h => rw [if_neg h]

/-- R137: a `RUN` whose transactions all complete; its ghost comes to `Programmed` only from `Reset`
(R138, R141). -/
theorem runOp_completes (hopen : s.tState = .opened) (hdepth : s.tQdepth = .val d)
    (hroom : s.tOutstanding < d) (hall : allComplete (programFrames P) s.draws) :
    runOp P s = .ok .none { s with
      txsr := .val (unitOf false P.cmdDisplayOn), prgPc := programLen P, prgState := .done,
      panel := if s.panel = .reset then .programmed else .undefined,
      trace := s.trace ++ (programSteps P).map ProgramStep.event,
      draws := drawsAfter (programFrames P) s.draws } := by
  have hsteps : runSteps P (programSteps P) (runStart s) =
      .ok .none (afterSteps (programSteps P) (runStart s)) := by
    have h := runSteps_append (P := P) (s := runStart s) [] (programSteps P) hopen hdepth hroom rfl
      hall
    rwa [List.append_nil, runSteps] at h
  rw [runOp_opened hopen, hsteps, OpOut.call, afterSteps_programSteps, panelAtRunEnd_eq]
  by_cases hreset : s.panel = .reset
  · simp [runStart, endProgram, hreset]
  · simp [runStart, endProgram, hreset]

end Complete

/-- Settles O20: every step of the program is done, one after another, and the `RUN` ends. -/
theorem runSendsWholeProgram : Obligations.RunSendsWholeProgram :=
  fun _ _ hopen hdepth hroom hall => exec_ok (i := .run) (runOp_completes hopen hdepth hroom hall)

/-! ## A `RUN` that returns (R140, R142, R145, R146) -/

/-- R145: from `s` to `t` a `RUN` returned `ok`. -/
structure RanWhole (P : Params) (s t : State) : Prop where
  result : t.result = some (.ok .none)
  trace  : t.trace = s.trace ++ (programSteps P).map ProgramStep.event
  panel  : t.panel = if s.panel = .reset then .programmed else .undefined

/-- R146, R204: from `s` to `t` a `RUN` returned because of a failed transaction at its step `k`,
which was to send `u`. -/
structure RanUpTo (P : Params) (s t : State) (k : Nat) (cause : TxCause) (u : Unit9) : Prop where
  result   : t.result = some (.err (.programAborted k cause))
  failed   : (programSteps P)[k]? = some (.send u)
  trace    : t.trace = s.trace ++ (((programSteps P).take k).map ProgramStep.event ++
    if cause = .queueFull then [] else [.txFault u])
  prgPc    : t.prgPc = k
  prgState : t.prgState = .aborted
  panel    : t.panel = .undefined

section Returned

variable {P : Params} {s t : State}

/-- R137: the two ways in which a `RUN` returns; one that is stuck leaves a stuck thread. -/
theorem runOp_returned (ht : finish (runOp P s) = .next t) (hrun : t.thread = .running) :
    RanWhole P s t ∨ ∃ k cause u, RanUpTo P s t k cause u := by
  obtain ⟨v, w, ⟨rfl, -, hw⟩, rfl⟩ | ⟨e, w, ⟨-, k, cause, u, rfl, hk, hw⟩, rfl⟩ | ⟨w, -, rfl⟩ :=
    (runOp_ends P s).of_finish ht
  · rw [hw]
    exact .inl ⟨rfl, rfl, rfl⟩
  · rw [hw]
    exact .inr ⟨k, cause, u, rfl, hk, rfl, rfl, rfl, rfl⟩
  · cases hrun

/-- R145: the frames among the events of a list of steps. -/
theorem framesOf_events (steps : List ProgramStep) :
    framesOf (steps.map ProgramStep.event) = sentUnits steps := by
  induction steps with
  | nil => rfl
  | cons step rest ih =>
    cases step with
    | send u => exact congrArg (u :: ·) ih
    | delay t => exact ih

/-- R105: the number of frames of a complete `RUN`. -/
theorem framesOf_program_length (P : Params) :
    (framesOf ((programSteps P).map ProgramStep.event)).length =
      (P.regProgram.map fun e => 1 + e.data.length).sum + 2 := by
  obtain ⟨-, hframes, -⟩ := programLengths P
  rw [framesOf_events, ← hframes, programFrames]

/-- R136, R145: the events of a program end with those of its closing part. -/
theorem programEvents_eq (P : Params) :
    (programSteps P).map ProgramStep.event =
      (entrySteps P.regProgram).map ProgramStep.event ++
        [.frame (unitOf false P.cmdSleepOut), .wait 120,
         .frame (unitOf false P.cmdDisplayOn), .wait 20] := by
  rw [programSteps, List.map_append]
  rfl

end Returned

/-- Settles O21: of the two ways to return only the abort has such a result. -/
theorem runAbortTrace : Obligations.RunAbortTrace := by
  refine ⟨exec_eq .run, fun P s t k cause ht hrun hres => ?_⟩
  obtain ⟨hok, -, -⟩ | ⟨k', cause', u, herr, hk, htrace, hpc, hstate, hpanel⟩ :=
    runOp_returned ht hrun
  · cases hok.symm.trans hres
  · cases herr.symm.trans hres
    exact ⟨u, hk, by rw [htrace, List.append_assoc], hpc, hstate, hpanel⟩

/-- Settles O22: the failed step is one of the program's steps. -/
theorem runRaisesOnlyProgramAborted : Obligations.RunRaisesOnlyProgramAborted := by
  intro P s t ht hrun
  obtain hwhole | ⟨k, cause, u, haborted⟩ := runOp_returned ht hrun
  · exact .inl hwhole.result
  · obtain ⟨hlt, -⟩ := List.getElem?_eq_some_iff.mp haborted.failed
    exact .inr ⟨k, cause, haborted.result, hlt⟩

/-- Settles O23: a `RUN` that returns `ok` has rendered the program, and an aborted one leaves the
panel undefined. -/
theorem runTraceAndReplay : Obligations.RunTraceAndReplay := by
  intro P s t ht hrun
  obtain hwhole | ⟨k, cause, u, haborted⟩ := runOp_returned ht hrun
  · exact ⟨fun _ => ⟨_, hwhole.trace, rfl, framesOf_program_length P, ⟨_, programEvents_eq P⟩,
      hwhole.panel⟩, fun hne => absurd hwhole.result hne⟩
  · refine ⟨fun hok => ?_, fun _ => haborted.panel⟩
    cases haborted.result.symm.trans hok

/-! ## `DELAY` (R143) -/

/-- Settles O24, by the one end of `DELAY`. -/
theorem delayAppendsWait : Obligations.DelayAppendsWait := fun t s =>
  exec_ok (i := .delay t) (delayOp_ok t s)

/-! ## The reset sequence while the engine streams (R143, R156) -/

theorem threadEvents_append (tr tr' : List Event) :
    threadEvents (tr ++ tr') = threadEvents tr ++ threadEvents tr' := List.filter_append ..

theorem AfterEvents.threadEvents {evs : List Event} {s t : State} (h : AfterEvents evs s t) :
    threadEvents t.trace = threadEvents s.trace ++ evs := by
  obtain ⟨tr, htrace, hevs⟩ := h.events
  rw [htrace, threadEvents_append, hevs]

/-- R156: on the backlight pin, while it is an output, the sequence ends `ok` in every state of the
interface: with its invariant no seam faults. -/
theorem timedResetOp_backlight_ok {P Q : Params} {s : State} (hne : P.pinBl ≠ P.pinShared)
    (hinv : ParallelInv Q s) (hcfg : s.blCfg = true) :
    ∃ t, timedResetOp P P.pinBl s = .ok .none t ∧
      AfterEvents (resetEvents P.pinBl) { s with blLevel := .val true } t := by
  have hends := timedResetOp_backlight P s hne hcfg
  have hsafe := timedResetOp_leaves (P := P) P.pinBl hinv
  cases hop : timedResetOp P P.pinBl s with
  | ok v t =>
    rw [hop] at hends
    obtain ⟨rfl, hafter⟩ := hends
    exact ⟨t, rfl, hafter⟩
  | err e t => rw [hop] at hends; exact hends.elim
  | stuck t => rw [hop] at hends; exact hends.elim
  | refuse r => rw [hop] at hends; exact hends.elim
  | fault f => rw [hop] at hsafe; exact hsafe.elim

/-- Settles O29: the engine runs at the seams only, and leaves the thread's events as they are. -/
theorem resetSequenceWhileStreaming : Obligations.ResetSequenceWhileStreaming := by
  intro P s hinv _ hcfg
  have hne := Ne.symm Config.params_constraints.pinsDistinct.1
  obtain ⟨t, hop, hafter⟩ := timedResetOp_backlight_ok hne hinv hcfg
  refine ⟨_, exec_ok (i := .timedResetSequence _) hop, ?_, hafter.threadEvents⟩
  exact congrArg (fun u : State => { u with result := some (.ok .none) }) hafter.frame

/-! ## The errors an instruction can raise (R200) -/

/-- An error that ends the operation has its code in `c`. -/
def OpOut.Raises (c : Nat → Prop) (o : OpOut) : Prop :=
  o.Ends (fun _ _ => True) (fun e _ => c e.code) (fun _ => True) (fun _ => True) fun _ => True

section Raises

variable {c : Nat → Prop}

theorem OpOut.Ends.raises {o : OpOut} {k : Value → State → Prop} {e : Err → State → Prop}
    {w : State → Prop} {r : Refusal → Prop} {f : Fault → Prop} (h : o.Ends k e w r f)
    (hc : ∀ x s, e x s → c x.code) : o.Raises c :=
  h.mono (fun _ _ _ => trivial) hc (fun _ _ => trivial) (fun _ _ => trivial) fun _ _ => trivial

theorem OpOut.Raises.mono {c' : Nat → Prop} {o : OpOut} (h : o.Raises c) (hc : ∀ n, c n → c' n) :
    o.Raises c' := OpOut.Ends.raises h fun _ _ => hc _

/-- Going on after a part that raises nothing. -/
theorem afterPart_raises {x : Except Fault State} {k : State → OpOut}
    (hk : ∀ s, (k s).Raises c) : (afterPart x k).Raises c :=
  afterPart_ends (fun s _ => hk s) fun _ _ => trivial

/-! ### The operations but `BRING_UP` -/

theorem openOp_raises (P : Params) (bus : BusId) (clk mode : Nat) (sel : PinId) (depth : Nat)
    (s : State) : (openOp P bus clk mode sel depth s).Raises (· = 2) :=
  (openOp_ends P bus clk mode sel depth s).raises (by rintro _ _ ⟨⟨_, rfl⟩, -⟩; rfl)

theorem sendOp_raises (P : Params) (u : Unit9) (s : State) : (sendOp P u s).Raises (· = 3) :=
  (sendOp_ends P u s).raises (by
    rintro _ _ ⟨-, ⟨rfl, -⟩ | ⟨_, -, rfl, -⟩⟩
    · rfl
    · rfl)

theorem closeOp_raises (s : State) : (closeOp s).Raises fun _ => False :=
  (closeOp_ends s).raises fun _ _ => id

theorem runOp_raises (P : Params) (s : State) : (runOp P s).Raises (· = 4) :=
  (runOp_ends P s).raises (by rintro _ _ ⟨-, _, _, _, rfl, -⟩; rfl)

theorem configureOutputOp_raises (P : Params) (pin : PinId) (s : State) :
    (configureOutputOp P pin s).Raises (· = 1) :=
  (configureOutputOp_ends P pin s).raises (by rintro _ _ ⟨rfl, -⟩; rfl)

theorem setLevelOp_raises (P : Params) (h : PinId) (l : Level) (s : State) :
    (setLevelOp P h l s).Raises (· = 1) :=
  (setLevelOp_ends P h l s).raises (by rintro _ _ ⟨rfl, -⟩; rfl)

theorem timedResetOp_raises (P : Params) (h : PinId) (s : State) :
    (timedResetOp P h s).Raises (· = 1) :=
  (timedResetOp_ends P h s).raises (by rintro _ _ ⟨rfl, -⟩; rfl)

theorem pConfigureOp_raises (P : Params) (tc : TimingConfig) (width : Nat) (pl : Placement)
    (pins : List PinId) (s : State) : (pConfigureOp P tc width pl pins s).Raises (· = 1) :=
  (pConfigureOp_ends P tc width pl pins s).raises (by rintro _ _ ⟨⟨_, rfl⟩, -⟩; rfl)

theorem pResetOp_raises (s : State) : (pResetOp s).Raises fun _ => False :=
  (pResetOp_ends s).raises fun _ _ => id

theorem pInitOp_raises (s : State) : (pInitOp s).Raises fun _ => False :=
  (pInitOp_ends s).raises fun _ _ => id

/-- R178: a rectangle that has passed the bounds test is copied in without an error. -/
theorem writeRows_raises (w x0 y0 n : Nat) (pixels : List Pixel) :
    ∀ (fuel : Nat) (rows : List Nat) (s : State),
      (writeRows w x0 y0 n pixels fuel rows s).Raises fun _ => False
  | 0, _, _ => trivial
  | fuel + 1, rows, s => by
    unfold writeRows
    dsimp only
    split
    · trivial
    · exact afterPart_raises fun _ => trivial
    · exact afterPart_raises fun _ => afterPart_raises fun _ =>
        writeRows_raises w x0 y0 n pixels fuel _ _

/-- R177: in every state, one with an unknown timing too. -/
theorem drawRectOp_raises (x0 y0 x1 y1 : Int) (px : List Pixel) (s : State) :
    (drawRectOp x0 y0 x1 y1 px s).Raises (· = 5) := by
  unfold drawRectOp
  split
  · trivial
  · dsimp only
    split
    · exact rfl
    · exact (writeRows_raises _ _ _ _ _ _ _ _).mono fun _ => False.elim

/-! ### `BRING_UP` -/

/-- R190: an error of the steps is the error of one of them, passed on unchanged. -/
theorem bringUpSteps_raises : ∀ (fs : List (State → OpOut)) (s : State),
    (∀ f ∈ fs, ∀ t, (f t).Raises c) → (bringUpSteps fs s).Raises c
  | [], _, _ => trivial
  | [f], s, hf =>
    afterStep_ends (hf f (by simp) s) (fun _ _ _ => trivial) (fun _ _ => id) (fun _ => id)
      (fun _ => id) fun _ => id
  | f :: g :: rest, s, hf =>
    afterStep_ends (hf f (by simp) s)
      (fun _ _ _ => afterPart_raises fun u =>
        bringUpSteps_raises (g :: rest) u fun q hq => hf q (List.mem_cons_of_mem _ hq))
      (fun _ _ => id) (fun _ => id) (fun _ => id) fun _ => id

/-- R191, R200: the error kinds of the steps. R140 keeps the `TransportError` of a frame inside the
`RUN`. -/
theorem bringUpTable_raises (P : Params) :
    ∀ f ∈ bringUpTable P, ∀ s, (f s).Raises fun n => n = 1 ∨ n = 2 ∨ n = 4 := by
  simp only [bringUpTable, List.forall_mem_cons, List.not_mem_nil, false_imp_iff, implies_true,
    and_true]
  have config : ∀ n, n = 1 → n = 1 ∨ n = 2 ∨ n = 4 := fun _ => .inl
  have never : ∀ n, False → n = 1 ∨ n = 2 ∨ n = 4 := fun _ => False.elim
  exact ⟨fun s => (configureOutputOp_raises P _ s).mono config,
    fun s => (configureOutputOp_raises P _ s).mono config,
    fun s => (setLevelOp_raises P _ _ s).mono config,
    fun s => (timedResetOp_raises P _ s).mono config,
    fun s => (openOp_raises P _ _ _ _ _ s).mono fun _ hn => .inr (.inl hn),
    fun s => (runOp_raises P s).mono fun _ hn => .inr (.inr hn),
    fun s => (closeOp_raises s).mono never,
    fun s => (pConfigureOp_raises P _ _ _ _ s).mono config,
    fun s => (pResetOp_raises s).mono never,
    fun s => (pInitOp_raises s).mono never,
    fun s => (setLevelOp_raises P _ _ s).mono config⟩

theorem bringUpOp_raises (P : Params) (s : State) :
    (bringUpOp P s).Raises fun n => n = 1 ∨ n = 2 ∨ n = 4 := by
  unfold bringUpOp
  split
  · trivial
  · exact (bringUpSteps_raises _ (startBringUp s) (bringUpTable_raises P)).call
      fun _ _ _ => trivial

end Raises

/-! ### The instructions -/

/-- R200: the codes of the errors an instruction can raise. -/
def errorCodes : Instr → Nat → Prop
  | .pConfigure _ _ _ _ | .configureOutput _ | .setLevel _ _ | .timedResetSequence _ => (· = 1)
  | .openBus _ _ _ _ _ => (· = 2)
  | .send _ | .cmd _ | .data _ => (· = 3)
  | .run => (· = 4)
  | .drawRect _ _ _ _ _ => (· = 5)
  | .bringUp => fun n => n = 1 ∨ n = 2 ∨ n = 4
  | .encCmd _ | .encData _ | .decUnit _ | .delay _ | .close | .pReset | .pInit => fun _ => False

/-- Every instruction raises only the errors of its row of the table. -/
theorem opOf_raises : ∀ (i : Instr) (s : State), (opOf i s).Raises (errorCodes i)
  | .encCmd _ | .encData _ | .decUnit _ | .delay _ => fun _ => trivial
  | .openBus _ _ _ _ _ => openOp_raises _ _ _ _ _ _
  | .send _ | .cmd _ | .data _ => sendOp_raises _ _
  | .close => closeOp_raises
  | .run => runOp_raises _
  | .configureOutput _ => configureOutputOp_raises _ _
  | .setLevel _ _ => setLevelOp_raises _ _ _
  | .timedResetSequence _ => timedResetOp_raises _ _
  | .pConfigure _ _ _ _ => pConfigureOp_raises _ _ _ _ _
  | .pReset => pResetOp_raises
  | .pInit => pInitOp_raises
  | .drawRect _ _ _ _ _ => drawRectOp_raises _ _ _ _ _
  | .bringUp => bringUpOp_raises _

/-- R14, R26: an error that a step of a running thread returns is one the operation raised. -/
theorem OpOut.Raises.of_finish {c : Nat → Prop} {o : OpOut} {t : State} {e : Err}
    (h : o.Raises c) (ht : Machine.finish o = .next t) (hrun : t.thread = .running)
    (hres : t.result = some (.err e)) : c e.code := by
  obtain ⟨v, u, -, rfl⟩ | ⟨x, u, hx, rfl⟩ | ⟨u, -, rfl⟩ := OpOut.Ends.of_finish h ht
  · cases hres
  · cases hres
    exact hx
  · cases hrun

/-- Settles O59, by the error kinds of each operation. -/
theorem errorsByInstruction : Obligations.ErrorsByInstruction := by
  intro i s t e hexec hrun hres
  rw [exec_eq] at hexec
  have hcode : errorCodes i e.code := (opOf_raises i s).of_finish hexec hrun hres
  cases i <;> exact hcode

end Sys2Proof.Machine

/-! The family 43_pinmux.md: what a `BRING_UP` appends to the trace before the backlight is switched
on and before the first serial transaction, and the three operations of the pin multiplexer in
each of their cases. -/

namespace Sys2Proof.Machine

/-! ## What an operation appends to the trace (R48) -/

/-- What holds of an operation's end in two ways. -/
theorem OpOut.Ends.and {o : OpOut} {k k' : Value → State → Prop} {e e' : Err → State → Prop}
    {w w' : State → Prop} {r r' : Refusal → Prop} {f f' : Fault → Prop}
    (h : o.Ends k e w r f) (h' : o.Ends k' e' w' r' f') :
    o.Ends (fun v s => k v s ∧ k' v s) (fun x s => e x s ∧ e' x s) (fun s => w s ∧ w' s)
      (fun x => r x ∧ r' x) fun x => f x ∧ f' x := by
  cases o
  · exact ⟨h, h'⟩
  · exact ⟨h, h'⟩
  · exact ⟨h, h'⟩
  · exact ⟨h, h'⟩
  · exact ⟨h, h'⟩

/-- From `s` to `t` the trace grew by events of one kind only. -/
def Appends (kind : Event → Prop) (s t : State) : Prop :=
  ∃ new, t.trace = s.trace ++ new ∧ ∀ e ∈ new, kind e

/-- However the operation ends, it appends events of one kind only. -/
def OnlyAppends (kind : Event → Prop) (f : State → OpOut) : Prop :=
  ∀ s, (f s).Leaves (Appends kind s) (Appends kind s) True

section Appends

variable {kind : Event → Prop} {P : Params} {s t u : State}

theorem Appends.of_silent (htrace : t.trace = s.trace) : Appends kind s t :=
  ⟨[], by rw [htrace, List.append_nil], nofun⟩

theorem Appends.of_event {e : Event} (he : kind e) (htrace : t.trace = s.trace ++ [e]) :
    Appends kind s t :=
  ⟨[e], htrace, fun _ hmem => List.mem_singleton.mp hmem ▸ he⟩

theorem Appends.trans (h : Appends kind s t) (k : Appends kind t u) : Appends kind s u := by
  obtain ⟨first, htrace, hfirst⟩ := h
  obtain ⟨second, ktrace, hsecond⟩ := k
  refine ⟨first ++ second, by rw [ktrace, htrace, List.append_assoc], fun e hmem => ?_⟩
  exact (List.mem_append.mp hmem).elim (hfirst e) (hsecond e)

/-- R183: the engine appends `Line` events only. -/
theorem EngineOnly.appends (hline : ∀ e : Event, e.isLine = true → kind e) (h : EngineOnly s t) :
    Appends kind s t := by
  obtain ⟨lines, hlines, htrace⟩ := h.lines
  exact ⟨lines, htrace, fun e hmem => hline e (hlines e hmem)⟩

theorem OnlyAppends.after {f : State → OpOut} (hf : OnlyAppends kind f) (h : Appends kind s t) :
    (f t).Leaves (Appends kind s) (Appends kind s) True :=
  (hf t).mono (fun _ _ => h.trans) (fun _ _ => h.trans) (fun _ => h.trans) (fun _ => id) fun _ => id

/-- An operation that keeps the backlight off appends no event that switches it on. -/
theorem KeepsDark.onlyAppends {f : State → OpOut} (hf : KeepsDark P f) :
    OnlyAppends (· ≠ .level P.pinBl P.blOnLevel) f := by
  intro s
  have hdark : ∀ t, Dark P s t → Appends (· ≠ .level P.pinBl P.blOnLevel) s t := fun t h => by
    obtain ⟨new, htrace, hoff⟩ := h.events
    exact ⟨new, htrace, fun e hmem heq => hoff (heq ▸ hmem)⟩
  exact (hf s).mono (fun _ => hdark) (fun _ => hdark) (fun _ => False.elim) (fun _ => id)
    fun _ => id

/-! ### The steps of a `BRING_UP` -/

theorem configureOutputOp_appends (pin : PinId)
    (hrole : kind (.role P.pinShared .digitalResetOutput)) :
    OnlyAppends kind (configureOutputOp P pin) := by
  intro s
  refine (configureOutputOp_ends P pin s).mono ?_ ?_ (fun _ => False.elim) (fun _ _ => trivial)
    fun _ _ => trivial
  · rintro v t ⟨-, ⟨-, -, rfl⟩ | ⟨-, -, rfl⟩ | ⟨-, -, rfl⟩⟩
    · exact .of_event hrole rfl
    · exact .of_silent rfl
    · exact .of_silent rfl
  · rintro e t ⟨-, -, -, rfl⟩
    exact .of_silent rfl

theorem setLevelOp_appends {pin : PinId} {l : Level} (hlevel : kind (.level pin l)) :
    OnlyAppends kind (setLevelOp P pin l) := by
  intro s
  refine (setLevelOp_ends P pin l s).mono ?_ ?_ (fun _ => False.elim) (fun _ _ => trivial)
    fun _ _ => trivial
  · rintro v t ⟨-, ⟨-, -, rfl⟩ | ⟨-, -, -, rfl⟩⟩
    · exact .of_event hlevel rfl
    · exact .of_event hlevel rfl
  · rintro e t ⟨-, -, -, rfl⟩
    exact .of_silent rfl

/-- R145, R146: the events of a `RUN`, complete or not, are those of its steps and of a failed
transaction. -/
theorem runOp_appends (hstep : ∀ x : ProgramStep, kind x.event) (hfault : ∀ u, kind (.txFault u)) :
    OnlyAppends kind (runOp P) := by
  intro s
  have hsteps : ∀ steps : List ProgramStep, ∀ e ∈ steps.map ProgramStep.event, kind e :=
    fun _ => List.forall_mem_map.mpr fun x _ => hstep x
  refine (runOp_ends P s).mono ?_ ?_ ?_ (fun _ _ => trivial) fun _ => False.elim
  · rintro v t ⟨-, -, ht⟩
    exact ⟨_, congrArg State.trace ht, hsteps _⟩
  · rintro e t ⟨-, k, cause, u, -, -, ht⟩
    refine ⟨_, congrArg State.trace ht, List.forall_mem_append.mpr ⟨hsteps _, ?_⟩⟩
    split
    · nofun
    · exact List.forall_mem_singleton.mpr (hfault u)
  · rintro t ⟨-, -, k, u, -, -, ht⟩
    exact ⟨_, congrArg State.trace ht, hsteps _⟩

theorem closeOp_appends (hrelease : kind .busRelease) : OnlyAppends kind closeOp := fun s =>
  (closeOp_ends s).mono (by rintro v t ⟨-, -, rfl⟩; exact .of_event hrelease rfl)
    (fun _ _ => False.elim) (fun _ => False.elim) (fun _ _ => trivial) fun _ => False.elim

theorem pConfigureOp_appends (tc : TimingConfig) (width : Nat) (pl : Placement) (pins : List PinId)
    (hclaim : kind (.busClaim .parallel)) (hrole : kind (.role P.pinShared .hardwareSyncSignal))
    (hconf : kind .parConfigured) : OnlyAppends kind (pConfigureOp P tc width pl pins) := fun s =>
  (pConfigureOp_ends P tc width pl pins s).mono
    (by rintro v t ⟨-, -, -, -, -, -, -, -, -, rfl⟩; exact ⟨_, rfl, by simp [hclaim, hrole, hconf]⟩)
    (by rintro e t ⟨-, rfl⟩; exact .of_silent rfl)
    (fun _ => False.elim) (fun _ _ => trivial) fun _ => False.elim

theorem pResetOp_appends (hreset : kind .parReset) : OnlyAppends kind pResetOp := fun s =>
  (pResetOp_ends s).mono (by rintro v t ⟨-, -, rfl⟩; exact .of_event hreset rfl)
    (fun _ _ => False.elim) (fun _ => False.elim) (fun _ _ => trivial) fun _ => False.elim

/-- R190: the sequencer itself appends nothing; between two steps the engine may. -/
theorem bringUpSteps_appends (hline : ∀ e : Event, e.isLine = true → kind e)
    {fs : List (State → OpOut)} (hfs : ∀ f ∈ fs, OnlyAppends kind f) :
    OnlyAppends kind (bringUpSteps fs) := fun s =>
  bringUpSteps_leaves (fun _ _ ht hu => ht.trans ((seam_engine hu).appends hline))
    (fun _ _ _ _ => trivial) (fun _ ht => ht.trans (.of_silent rfl))
    (fun _ _ ht => ht.trans (.of_silent rfl)) fs (fun f hf _ ht => (hfs f hf).after ht) s
    (.of_silent rfl)

end Appends

/-- R190, R192: the steps of a list are those of its first part, a seam, and those of the rest. -/
theorem bringUpSteps_append {before after : List (State → OpOut)} (hbefore : before ≠ [])
    (hafter : after ≠ []) (s : State) :
    bringUpSteps (before ++ after) s = (bringUpSteps before s).call fun t =>
      afterPart (seam t) fun u => bringUpSteps after u := by
  induction before generalizing s with
  | nil => exact absurd rfl hbefore
  | cons f rest ih =>
    rw [List.cons_append, bringUpSteps_cons (by simp [hafter])]
    by_cases hrest : rest = []
    · subst hrest
      rw [List.nil_append, bringUpSteps]
      cases f s <;> rfl
    · rw [bringUpSteps_cons hrest]
      cases f s with
      | ok v t =>
        rw [afterStep, afterStep]
        cases seam (advanceBringUp t) with
        | ok u => exact ih hrest u
        | error y => rfl
      | err e t => rfl
      | refuse r => rfl
      | stuck t => rfl
      | fault y => rfl

/-! ## The backlight in a `BRING_UP` (R161) -/

/-- R161: from `s` to `t` the backlight was switched on once, as the thread's last event, and after
`StreamStart`. -/
def SwitchedOn (P : Params) (s t : State) : Prop :=
  ∃ before lines, t.trace = s.trace ++ before ++ [.streamStart] ++ lines ++
      [.level P.pinBl P.blOnLevel] ∧
    (∀ e ∈ lines, e.isLine = true) ∧ .level P.pinBl P.blOnLevel ∉ before

/-- R161: from `s` to `t` no event switched the backlight on. -/
abbrev StaysOff (P : Params) (s t : State) : Prop :=
  Appends (· ≠ .level P.pinBl P.blOnLevel) s t

section Backlight

variable {P : Params} {s t : State}

theorem Appends.exists_notMem {e : Event} (h : Appends (· ≠ e) s t) :
    ∃ new, t.trace = s.trace ++ new ∧ e ∉ new := by
  obtain ⟨new, htrace, hne⟩ := h
  exact ⟨new, htrace, fun hmem => hne e hmem rfl⟩

theorem ne_level_of_isLine {pin : PinId} {l : Level} (e : Event) (h : e.isLine = true) :
    e ≠ .level pin l := by
  rintro rfl
  cases h

/-- R150, R191: no step before `P_INIT` switches the backlight on. -/
theorem bringUpTable_off (hpins : P.PinsDistinct) :
    ∀ f ∈ (bringUpTable P).take 9, OnlyAppends (· ≠ .level P.pinBl P.blOnLevel) f := by
  have hsplit : (bringUpTable P).take 9 = (bringUpTable P).take 5 ++ [runOp P, closeOp,
      pConfigureOp P Config.timing Config.parWidth Config.fbPlacement P.dataPinMap, pResetOp] := rfl
  rw [hsplit, List.forall_mem_append]
  refine ⟨fun f hf => (bringUpTable_dark hpins f hf).onlyAppends, ?_⟩
  simp only [List.forall_mem_cons, List.not_mem_nil, false_imp_iff, implies_true, and_true]
  exact ⟨runOp_appends (fun x => by cases x <;> nofun) nofun, closeOp_appends nofun,
    pConfigureOp_appends _ _ _ _ nofun nofun nofun, pResetOp_appends nofun⟩

/-- R161, R191: after `P_INIT` only the engine runs before the backlight is switched on. -/
theorem bringUpSteps_switchOn (hne : P.pinBl ≠ P.pinShared)
    (h : StaysOff P s t) :
    (bringUpSteps [pInitOp, setLevelOp P P.pinBl P.blOnLevel] t).Ends
      (fun _ => SwitchedOn P s) (fun _ => StaysOff P s) (StaysOff P s) (fun _ => True)
      fun _ => True := by
  rw [bringUpSteps]
  refine afterStep_ends (pInitOp_ends t) ?_ (fun _ _ => False.elim) (fun _ => False.elim)
    (fun _ _ => trivial) fun _ => False.elim
  rintro v u ⟨-, -, rfl⟩
  refine afterPart_ends (fun x hseam => ?_) fun _ _ => trivial
  rw [bringUpSteps]
  refine afterStep_ends (setLevelOp_ends P P.pinBl P.blOnLevel x) ?_ ?_ (fun _ => False.elim)
    (fun _ _ => trivial) fun _ => False.elim
  · rintro v y ⟨-, ⟨hshared, -⟩ | ⟨-, -, -, rfl⟩⟩
    · exact absurd hshared hne
    · obtain ⟨before, htrace, hoff⟩ := h.exists_notMem
      obtain ⟨lines, hlines, hx⟩ := (seam_engine hseam).lines
      refine ⟨before, lines, ?_, hlines, hoff⟩
      rw [← htrace]
      exact congrArg (· ++ _) hx
  · rintro e y ⟨-, hshared, -⟩
    exact absurd hshared hne

/-- R161: every end of `BRING_UP`, as far as the backlight goes. -/
theorem bringUpOp_backlight (hpins : P.PinsDistinct) (s : State) : (bringUpOp P s).Ends
    (fun v t => v = .none ∧ SwitchedOn P s t)
    (fun _ => StaysOff P s) (StaysOff P s) (fun _ => True) fun _ => True := by
  unfold bringUpOp
  split
  · trivial
  · have hsplit : bringUpTable P =
        (bringUpTable P).take 9 ++ [pInitOp, setLevelOp P P.pinBl P.blOnLevel] := rfl
    have hoff := (bringUpSteps_appends ne_level_of_isLine
      (bringUpTable_off hpins)).after (s := s) (t := startBringUp s) (.of_silent rfl)
    rw [hsplit, bringUpSteps_append (by simp [bringUpTable]) (by simp)]
    refine (OpOut.Ends.call hoff fun _ t ht => ?_).call fun _ t ht => ⟨rfl, ht⟩
    exact afterPart_ends (fun u hseam => bringUpSteps_switchOn (Ne.symm hpins.1) (ht.trans
      ((seam_engine hseam).appends ne_level_of_isLine))) fun _ _ => trivial

end Backlight

/-- Settles O49: the steps before `P_INIT` leave the backlight off, and what follows `P_INIT` is the
engine and the last step. -/
theorem backlightOnlyAfterStreamStart : Obligations.BacklightOnlyAfterStreamStart := by
  intro P s t hpins hrun ht
  have hends := (bringUpOp_backlight hpins s).and (bringUpOp_stuckInRun hpins hrun)
  obtain ⟨v, u, ⟨⟨rfl, hon⟩, hthread⟩, rfl⟩ | ⟨e, u, ⟨hoff, hthread⟩, rfl⟩ | ⟨u, ⟨hoff, -⟩, rfl⟩ :=
    hends.of_finish ht
  · exact .inl ⟨hthread, rfl, hon⟩
  · exact .inr ⟨.inr ⟨hthread, e, rfl⟩, hoff.exists_notMem⟩
  · exact .inr ⟨.inl rfl, hoff.exists_notMem⟩

/-! ## The waits before the first transaction (R158) -/

/-- Whether an event is a serial transaction, completed or failed. -/
def Event.isTransaction : Event → Bool
  | .frame _ | .txFault _ => true
  | _ => false

/-- R158: the events from `s` to `t` begin with at least 160 ms of waits and no transaction. -/
def Waited (s t : State) : Prop :=
  ∃ head tail, t.trace = s.trace ++ (head ++ tail) ∧
    (∀ e ∈ head, e.isTransaction = false) ∧ 160 ≤ elapsedWait head

/-- R158: of the events from `s` to `t` every transaction has 160 ms of waits before it. -/
def TransactionsWait (s t : State) : Prop :=
  ∃ events, t.trace = s.trace ++ events ∧
    ∀ (before after : List Event) (u : Unit9),
      (events = before ++ .frame u :: after ∨ events = before ++ .txFault u :: after) →
      160 ≤ elapsedWait before

theorem elapsedWait_append (a b : List Event) :
    elapsedWait (a ++ b) = elapsedWait a + elapsedWait b := by
  induction a with
  | nil => rw [List.nil_append, elapsedWait, Nat.zero_add]
  | cons e rest ih => cases e <;> simp [elapsedWait, ih, Nat.add_assoc]

/-- R49: the engine's events are no waits. -/
theorem elapsedWait_threadEvents (tr : List Event) :
    elapsedWait (threadEvents tr) = elapsedWait tr := by
  induction tr with
  | nil => rfl
  | cons e rest ih => cases e <;> simpa [threadEvents, Event.isLine, elapsedWait] using ih

theorem Event.isTransaction_of_isLine (e : Event) (h : e.isLine = true) :
    e.isTransaction = false := by
  cases e with
  | line y px => rfl
  | _ => cases h

theorem resetEvents_noTransaction (pin : PinId) :
    ∀ e ∈ resetEvents pin, e.isTransaction = false := by
  simp [resetEvents, Event.isTransaction]

section Waits

variable {P : Params} {s t u : State}

/-- A transaction after a part without one comes after the whole of that part. -/
theorem elapsedWait_le_of_split {head tail before after : List Event} {e : Event}
    (hhead : ∀ x ∈ head, x.isTransaction = false) (he : e.isTransaction = true)
    (hsplit : head ++ tail = before ++ e :: after) : elapsedWait head ≤ elapsedWait before := by
  obtain ⟨mid, hbefore, -⟩ | ⟨mid, rfl, hmid⟩ := List.append_eq_append_iff.mp hsplit
  · rw [hbefore, elapsedWait_append]
    exact Nat.le_add_right _ _
  · cases mid with
    | nil => rw [List.append_nil]
    | cons x rest =>
      obtain ⟨rfl, -⟩ := List.cons.inj hmid
      have hx := hhead e (by simp)
      rw [he] at hx
      cases hx

theorem Waited.transactionsWait (h : Waited s t) : TransactionsWait s t := by
  obtain ⟨head, tail, htrace, hhead, hwait⟩ := h
  refine ⟨_, htrace, fun before after u hsplit => hwait.trans ?_⟩
  obtain hsplit | hsplit := hsplit
  · exact elapsedWait_le_of_split hhead rfl hsplit
  · exact elapsedWait_le_of_split hhead rfl hsplit

/-- Where there is no transaction there is nothing to wait for. -/
theorem Appends.transactionsWait (h : Appends (·.isTransaction = false) s t) :
    TransactionsWait s t := by
  obtain ⟨new, htrace, hnone⟩ := h
  refine ⟨new, htrace, fun before after u hsplit => ?_⟩
  obtain rfl | rfl := hsplit
  · cases hnone (.frame u) (by simp)
  · cases hnone (.txFault u) (by simp)

/-- What has been waited stays waited, whatever is appended. -/
theorem Waited.onward (h : Waited s t) (k : Onward t u) : Waited s u := by
  obtain ⟨head, tail, htrace, hhead, hwait⟩ := h
  obtain ⟨new, hnew⟩ := k.trace
  exact ⟨head, tail ++ new, by rw [← hnew, htrace]; simp, hhead, hwait⟩

/-- Events without a transaction may come before. -/
theorem Waited.after (h : Waited t u) (k : Appends (·.isTransaction = false) s t) :
    Waited s u := by
  obtain ⟨first, ht, hfirst⟩ := k
  obtain ⟨head, tail, htrace, hhead, hwait⟩ := h
  refine ⟨first ++ head, tail, by rw [htrace, ht]; simp,
    List.forall_mem_append.mpr ⟨hfirst, hhead⟩, hwait.trans ?_⟩
  rw [elapsedWait_append]
  exact Nat.le_add_left _ _

/-- R156: the reset sequence waits 160 ms, and the engine beside it makes no transaction. -/
theorem AfterEvents.waited {pin : PinId} (h : AfterEvents (resetEvents pin) s t) :
    Waited s t := by
  obtain ⟨tr, htrace, hevents⟩ := h.events
  have hwait : elapsedWait tr = 160 := by rw [← elapsedWait_threadEvents, hevents]; rfl
  refine ⟨tr, [], by rw [htrace, List.append_nil], fun e hmem => ?_, hwait.ge⟩
  cases hline : e.isLine with
  | true => exact e.isTransaction_of_isLine hline
  | false =>
    refine resetEvents_noTransaction pin e ?_
    rw [← hevents]
    exact List.mem_filter.mpr ⟨hmem, by rw [hline]; rfl⟩

/-- R191: the three steps before the reset sequence make no transaction. -/
theorem bringUpTable_noTransaction :
    ∀ f ∈ (bringUpTable P).take 3, OnlyAppends (·.isTransaction = false) f := by
  simp only [bringUpTable, List.take_succ_cons, List.take_zero, List.forall_mem_cons,
    List.not_mem_nil, false_imp_iff, implies_true, and_true]
  exact ⟨configureOutputOp_appends _ rfl, configureOutputOp_appends _ rfl, setLevelOp_appends rfl⟩

/-- R158: after the reset sequence the wait is done, whatever the steps after it do. -/
theorem bringUpSteps_waited {fs : List (State → OpOut)} (hfs : ∀ f ∈ fs, GoesOnward f)
    (h : Waited s t) : (bringUpSteps fs t).Leaves (Waited s) (Waited s) True :=
  bringUpSteps_leaves (fun _ _ ht hu => ht.onward (seam_onward hu)) (fun _ _ _ _ => trivial)
    (fun _ ht => ht.onward (.of_silent rfl rfl)) (fun _ _ ht => ht.onward (.of_silent rfl rfl)) fs
    (fun f hf x hx => (hfs f hf x).mono (fun _ _ => hx.onward) (fun _ _ => hx.onward)
      (fun _ => hx.onward) (fun _ => id) fun _ => id) t h

/-- R158, R191: from the reset sequence on. -/
theorem bringUpSteps_fromReset (h : Appends (·.isTransaction = false) s t) :
    (bringUpSteps ((bringUpTable P).drop 3) t).Leaves (TransactionsWait s) (TransactionsWait s)
      True := by
  have hcons : (bringUpTable P).drop 3 = timedResetOp P P.pinShared :: (bringUpTable P).drop 4 :=
    rfl
  rw [hcons, bringUpSteps_cons (by simp [bringUpTable])]
  refine afterStep_ends (timedResetOp_ends P P.pinShared t) ?_ ?_ (fun _ => False.elim)
    (fun _ _ => trivial) fun _ _ => trivial
  · rintro v u ⟨-, hseq⟩
    have hwaited : Waited s u := by
      obtain ⟨-, -, hseq⟩ | ⟨-, -, -, hseq⟩ := hseq
      · exact hseq.waited.after (h.trans (.of_silent rfl))
      · exact hseq.waited.after (h.trans (.of_silent rfl))
    refine afterPart_ends (fun x hseam => ?_) fun _ _ => trivial
    have hx : Waited s x :=
      (hwaited.onward (u := advanceBringUp u) (.of_silent rfl rfl)).onward (seam_onward hseam)
    exact (bringUpSteps_waited
      (fun f hf => bringUpTable_onward P f (List.mem_of_mem_drop hf)) hx).mono
      (fun _ _ => Waited.transactionsWait) (fun _ _ => Waited.transactionsWait)
      (fun _ => Waited.transactionsWait) (fun _ => id) fun _ => id
  · rintro e u ⟨-, -, -, rfl⟩
    exact (h.trans (.of_silent rfl)).transactionsWait

/-- R158: however a `BRING_UP` ends. -/
theorem bringUpOp_transactionsWait (P : Params) (s : State) :
    (bringUpOp P s).Leaves (TransactionsWait s) (TransactionsWait s) True := by
  unfold bringUpOp
  split
  · trivial
  · have hfirst := (bringUpSteps_appends Event.isTransaction_of_isLine
      (bringUpTable_noTransaction (P := P))).after (s := s) (t := startBringUp s) (.of_silent rfl)
    rw [← List.take_append_drop 3 (bringUpTable P),
      bringUpSteps_append (by simp [bringUpTable]) (by simp [bringUpTable])]
    refine OpOut.Leaves.call (OpOut.Ends.call (p := fun _ => Appends (·.isTransaction = false) s)
      (hfirst.mono (fun _ _ => id) (fun _ _ => Appends.transactionsWait)
        (fun _ => Appends.transactionsWait) (fun _ => id) fun _ => id) fun _ t ht => ?_) fun _ => id
    exact afterPart_ends (fun u hseam => bringUpSteps_fromReset
      (ht.trans ((seam_engine hseam).appends Event.isTransaction_of_isLine))) fun _ _ => trivial

end Waits

/-- Settles O50: no step before the reset sequence makes a transaction, and the sequence waits. -/
theorem resetWaitsBeforeFirstFrame : Obligations.ResetWaitsBeforeFirstFrame := fun P s _ _ ht =>
  (bringUpOp_transactionsWait P s).finish (q := TransactionsWait s) ht (fun _ _ => id) fun _ => id

/-! ## The operations of the pin multiplexer in each of their cases (R152, R154 to R157) -/

/-- R14: an instruction whose operation raises an error leads to the operation's state with that
error as the result. -/
theorem exec_err {i : Instr} {e : Err} {s t : State} (h : opOf i s = .err e t) :
    exec i s = .next { t with result := some (.err e) } := by
  rw [exec_eq, h, finish]

section Cases

variable {P : Params} {s t : State} {pin : PinId}

/-! ### `CONFIGURE_OUTPUT` (R152) -/

theorem configureOutputOp_unassigned (h : s.role = .unassigned) :
    configureOutputOp P P.pinShared s = .ok (.handle P.pinShared)
      (emit (.role P.pinShared .digitalResetOutput) { s with role := .digitalResetOutput }) := by
  rw [configureOutputOp, if_pos rfl]
  simp only [h]

/-- R152: a repeated configuration changes nothing. -/
theorem configureOutputOp_again (h : s.role = .digitalResetOutput) :
    configureOutputOp P P.pinShared s = .ok (.handle P.pinShared) s := by
  rw [configureOutputOp, if_pos rfl]
  simp only [h]

theorem configureOutputOp_sync (h : s.role = .hardwareSyncSignal) :
    configureOutputOp P P.pinShared s = .err (.configError .pinOwnedByTimingGenerator) s := by
  rw [configureOutputOp, if_pos rfl]
  simp only [h, raise]

theorem configureOutputOp_outside (hshared : pin ≠ P.pinShared) (hbl : pin ≠ P.pinBl) :
    configureOutputOp P pin s = .refuse .pinOutsideBlock := by
  rw [configureOutputOp, if_neg hshared, if_neg hbl]

/-! ### `SET_LEVEL` (R154) -/

theorem setLevelOp_sync (l : Level) (h : s.role = .hardwareSyncSignal) :
    setLevelOp P P.pinShared l s = .err (.configError .pinOwnedByTimingGenerator) s := by
  rw [setLevelOp, if_pos rfl]
  simp only [h, raise]

theorem setLevelOp_unassigned (l : Level) (h : s.role = .unassigned) :
    setLevelOp P P.pinShared l s = .refuse .handleNotConfigured := by
  rw [setLevelOp, if_pos rfl]
  simp only [h]

theorem setLevelOp_unconfigured (l : Level) (hne : P.pinBl ≠ P.pinShared) (h : s.blCfg = false) :
    setLevelOp P P.pinBl l s = .refuse .handleNotConfigured := by
  rw [setLevelOp, if_neg hne, if_pos rfl, if_neg (by simp [h])]

theorem setLevelOp_outside (l : Level) (hshared : pin ≠ P.pinShared) (hbl : pin ≠ P.pinBl) :
    setLevelOp P pin l s = .refuse .pinOutsideBlock := by
  rw [setLevelOp, if_neg hshared, if_neg hbl]

/-! ### `TIMED_RESET_SEQUENCE` (R156) -/

/-- R156: an error of the first `SET_LEVEL` is the sequence's. -/
theorem timedResetOp_err {e : Err} (h : setLevelOp P pin true s = .err e t) :
    timedResetOp P pin s = .err e t := by
  rw [timedResetOp, resetCalls, inSequence, h, OpOut.call, OpOut.call]

/-- R156: a refusal of the first `SET_LEVEL` is the sequence's. -/
theorem timedResetOp_refuse {r : Refusal} (h : setLevelOp P pin true s = .refuse r) :
    timedResetOp P pin s = .refuse r := by
  rw [timedResetOp, resetCalls, inSequence, h, OpOut.call, OpOut.call]

/-- R156: the six calls on the backlight pin, without streaming; R157 leaves the ghost alone. -/
theorem timedResetOp_backlight_idle (hne : P.pinBl ≠ P.pinShared) (hcfg : s.blCfg = true)
    (hidle : s.pState ≠ .streaming) :
    timedResetOp P P.pinBl s = .ok .none
      { s with blLevel := .val true, trace := s.trace ++ resetEvents P.pinBl } := by
  rw [timedResetOp, resetCalls, inSequence_next (setLevelOp_backlight true hne ?_) ?_,
    inSequence_next (delayOp_ok _ _) ?_, inSequence_next (setLevelOp_backlight false hne ?_) ?_,
    inSequence_next (delayOp_ok _ _) ?_, inSequence_next (setLevelOp_backlight true hne ?_) ?_]
  · simp [inSequence, delayOp, emit, OpOut.call, panelAfterResetSequence, hne, resetEvents,
      Config.tRstHigh1, Config.tRstLow, Config.tRstHigh2]
  all_goals simp [hcfg, hidle]

end Cases

/-- R150: the hardware's two pins differ (log entry 3). -/
theorem params_pinBl_ne : Config.params.pinBl ≠ Config.params.pinShared :=
  Ne.symm Config.params_constraints.pinsDistinct.1

/-- Settles O25, by the role of the shared pin and by the pin. -/
theorem configureOutputFollowsRule : Obligations.ConfigureOutputFollowsRule := fun _ =>
  ⟨fun h => exec_ok (i := .configureOutput _) (configureOutputOp_unassigned h),
    fun h => exec_ok (i := .configureOutput _) (configureOutputOp_again h),
    fun h => exec_err (i := .configureOutput _) (configureOutputOp_sync h),
    exec_ok (i := .configureOutput _) (configureOutputOp_backlight params_pinBl_ne),
    fun _ hshared hbl => exec_refused (configureOutputOp_outside hshared hbl)⟩

/-- Settles O26, by the role of the shared pin, the backlight's configuration and the pin. -/
theorem setLevelFollowsRule : Obligations.SetLevelFollowsRule := fun _ l =>
  ⟨fun h => exec_ok (i := .setLevel _ l) (setLevelOp_shared l h),
    fun h => exec_err (i := .setLevel _ l) (setLevelOp_sync l h),
    fun h => exec_refused (setLevelOp_unassigned l h),
    fun h => exec_ok (i := .setLevel _ l) (setLevelOp_backlight l params_pinBl_ne h),
    fun h => exec_refused (setLevelOp_unconfigured l params_pinBl_ne h),
    fun _ hshared hbl => exec_refused (setLevelOp_outside l hshared hbl)⟩

/-- Settles O28: without streaming the six calls run one after another; an end other than `ok` is
that of the first `SET_LEVEL`. -/
theorem resetSequenceFollowsRule : Obligations.ResetSequenceFollowsRule := fun _ =>
  ⟨fun hidle h => exec_ok (i := .timedResetSequence _) (timedResetOp_idle h hidle),
    fun hidle h => exec_ok (i := .timedResetSequence _)
      (timedResetOp_backlight_idle params_pinBl_ne h hidle),
    fun h => exec_err (i := .timedResetSequence _) (timedResetOp_err (setLevelOp_sync true h)),
    fun h => exec_refused (timedResetOp_refuse (setLevelOp_unassigned true h)),
    fun h => exec_refused (timedResetOp_refuse (setLevelOp_unconfigured true params_pinBl_ne h)),
    fun _ hshared hbl => exec_refused (timedResetOp_refuse (setLevelOp_outside true hshared hbl))⟩

end Sys2Proof.Machine

/-! The family 44_parallel.md: the operations of the parallel interface in each of their cases, what
a copy-in makes of the frame buffer, one pixel clock of the engine, and its sync outputs. -/

namespace Sys2Proof.Machine

/-! ## The interface's registers where the invariant holds (R35, R39) -/

theorem ParallelInv.config {P : Params} {s : State} {tc : TimingConfig} (h : ParallelInv P s)
    (hconf : s.pState ≠ .unconfigured) (htc : s.tc = .val tc) : ∃ m, ConfigInv P s tc m := by
  obtain ⟨tc', m, hlatched⟩ := h.configured hconf
  obtain rfl : tc = tc' := by simpa [htc] using hlatched.timing
  exact ⟨m, hlatched⟩

/-! ## The copy-in of a rectangle (R175, R176, R178) -/

section Rectangle

variable {w x0 y0 x1 y1 r i a : Nat} {pixels : List Pixel} {p : Pixel} {s t : State}

theorem rowOf_getElem? {n : Nat} (hi : i < n) : (rowOf pixels n r)[i]? = pixels[r * n + i]? := by
  rw [rowOf, List.getElem?_take_of_lt hi, List.getElem?_drop]

/-- R175: the cell in row `r` and column `i` of the rectangle takes the pixel `i` of its row. -/
theorem rectPixel_of_row (hw : x1 ≤ w) (hr : r < y1 - y0) (hi : i < x1 - x0) :
    rectPixel w x0 y0 x1 y1 pixels ((y0 + r) * w + x0 + i) =
      (rowOf pixels (x1 - x0) r)[i]? := by
  obtain ⟨hdiv, hmod⟩ : ((y0 + r) * w + x0 + i) / w = y0 + r ∧
      ((y0 + r) * w + x0 + i) % w = x0 + i :=
    (Nat.div_mod_unique (by omega)).mpr ⟨by rw [Nat.mul_comm w]; omega, by omega⟩
  rw [rectPixel, hdiv, hmod, if_pos (by omega), rowOf_getElem? hi, Nat.add_sub_cancel_left,
    Nat.add_sub_cancel_left]

/-- R175: only a cell of the rectangle takes a pixel. -/
theorem exists_row_of_rectPixel (h : rectPixel w x0 y0 x1 y1 pixels a = some p) :
    ∃ r i, r < y1 - y0 ∧ i < x1 - x0 ∧ a = (y0 + r) * w + x0 + i := by
  unfold rectPixel at h
  split at h
  · next hin =>
    refine ⟨a / w - y0, a % w - x0, by omega, by omega, ?_⟩
    rw [show y0 + (a / w - y0) = a / w by omega, Nat.add_assoc,
      show x0 + (a % w - x0) = a % w by omega, Nat.div_add_mod']
  · cases h

/-- R178: a cell inside the rectangle holds its pixel when all the rows are written. -/
theorem RowsWritten.fbCell_inside
    (h : RowsWritten w x0 y0 (x1 - x0) pixels (List.range (y1 - y0)) s t) (hw : x1 ≤ w)
    (ha : rectPixel w x0 y0 x1 y1 pixels a = some p) : fbCell t a = .val p := by
  obtain ⟨r, i, hr, hi, rfl⟩ := exists_row_of_rectPixel ha
  rw [rectPixel_of_row hw hr hi] at ha
  exact h.written r (List.mem_range.mpr hr) i p hi ha

/-- R178: a cell outside the rectangle is as before, since a full pixel list has a pixel for every
cell of the rows that are written. -/
theorem RowsWritten.fbCell_outside
    (h : RowsWritten w x0 y0 (x1 - x0) pixels (List.range (y1 - y0)) s t) (hw : x1 ≤ w)
    (hlen : pixels.length = (x1 - x0) * (y1 - y0))
    (ha : rectPixel w x0 y0 x1 y1 pixels a = none) : fbCell t a = fbCell s a := by
  refine h.untouched a fun r hr ⟨hlo, hhi⟩ => ?_
  have hrow := rowOf_length hlen (List.mem_range.mp hr)
  obtain ⟨i, rfl⟩ := Nat.exists_eq_add_of_le hlo
  have hi : i < x1 - x0 := by omega
  rw [rectPixel_of_row hw (List.mem_range.mp hr) hi, List.getElem?_eq_none_iff] at ha
  omega

variable {P : Params} {tc : TimingConfig}

theorem boundsError_legal {height : Nat} (hx : x0 < x1) (hw : x1 ≤ w) (hy : y0 < y1)
    (hh : y1 ≤ height) (hlen : pixels.length = (x1 - x0) * (y1 - y0)) :
    boundsError w height x0 y0 x1 y1 pixels = none := by
  refine boundsError_none.mpr ⟨by omega, by omega, ?_⟩
  rw [hlen, Nat.cast_mul, Nat.cast_sub hx.le, Nat.cast_sub hy.le]

/-- R177, R178: past the bounds test `DRAW_RECT` is the copy-in, which raises nothing. -/
theorem drawRectOp_raises_nothing {x0 y0 x1 y1 : Int} (hconf : s.pState ≠ .unconfigured)
    (htc : s.tc = .val tc) (hbounds : boundsError tc.hRes tc.vRes x0 y0 x1 y1 pixels = none) :
    (drawRectOp x0 y0 x1 y1 pixels s).Raises fun _ => False := by
  rw [drawRectOp, if_neg hconf, htc]
  dsimp only [readX_val]
  rw [hbounds]
  exact writeRows_raises ..

/-- R176: a legal rectangle is copied in. -/
theorem drawRectOp_legal (hinv : ParallelInv P s) (hconf : s.pState ≠ .unconfigured)
    (htc : s.tc = .val tc) (hbounds : boundsError tc.hRes tc.vRes x0 y0 x1 y1 pixels = none) :
    ∃ t, drawRectOp x0 y0 x1 y1 pixels s = .ok .none t ∧
      CopiedIn P tc x0 y0 (x1 - x0) pixels (List.range (y1 - y0)) s t := by
  have hends := (drawRectOp_ends x0 y0 x1 y1 pixels hinv hconf htc).and
    (drawRectOp_raises_nothing hconf htc hbounds)
  cases hop : drawRectOp x0 y0 x1 y1 pixels s with
  | ok v t =>
    rw [hop] at hends
    obtain ⟨⟨rfl, -, hcopied⟩, -⟩ := hends
    exact ⟨t, rfl, hcopied⟩
  | err e t => rw [hop] at hends; exact hends.2.elim
  | stuck t => rw [hop] at hends; exact hends.1.elim
  | refuse r => rw [hop] at hends; exact hends.1.elim
  | fault f => rw [hop] at hends; exact hends.1.elim

theorem CopiedIn.frame {n : Nat} {rows : List Nat} (h : CopiedIn P tc x0 y0 n pixels rows s t) :
    t = withEngine t.hcnt t.vcnt t.linebuf t.trace t.draws { s with fb := t.fb } := by
  obtain ⟨_, _, hafter⟩ := h.order
  exact hafter.frame

/-- R39: the buffer stays one of the interface's configuration. -/
theorem CopiedIn.buffer {n : Nat} {rows : List Nat} (h : CopiedIn P tc x0 y0 n pixels rows s t)
    (hconf : s.pState ≠ .unconfigured) (htc : s.tc = .val tc) :
    ∃ m, t.fb = some m ∧ m.wf = true ∧ m.size = tc.hRes * tc.vRes := by
  have hstate : t.pState = s.pState := by rw [h.frame]; rfl
  have htiming : t.tc = s.tc := by rw [h.frame]; rfl
  obtain ⟨m, hlatched⟩ := h.inv.config (hstate ▸ hconf) (htiming.trans htc)
  exact ⟨m, hlatched.buffer, hlatched.canonical, hlatched.size⟩

end Rectangle

/-- Settles O36: the copy-in writes every row of the rectangle (`CopiedIn`), and the rows are the
rectangle's cells (`rectPixel_of_row`). -/
theorem drawRectCopiesIn : Obligations.DrawRectCopiesIn := by
  intro P s tc x0 y0 x1 y1 pixels hinv hconf htc hx hw hy hh hlen
  obtain ⟨t, hop, hcopied⟩ :=
    drawRectOp_legal hinv hconf htc (boundsError_legal hx hw hy hh hlen)
  obtain ⟨order, hperm, hafter⟩ := hcopied.order
  refine ⟨_, exec_ok (i := .drawRect x0 y0 x1 y1 pixels) hop, fun a => ?_,
    hcopied.buffer hconf htc, ?_, hcopied.idle, order, hperm, hafter.threadEvents⟩
  · cases ha : rectPixel tc.hRes x0 y0 x1 y1 pixels a with
    | some p => exact hcopied.cells.fbCell_inside hw ha
    | none => exact hcopied.cells.fbCell_outside hw hlen ha
  · exact congrArg (fun u : State => { u with result := some (.ok .none) }) hcopied.frame

/-! ## One pixel clock (R180, R182, R183) -/

section Clock

variable {P : Params} {s t : State} {tc : TimingConfig} {h v y : Nat}

/-- R180: with no operation to issue a step is one pixel clock, stuck or not. -/
theorem step_of_pixelClock (hprog : s.program = []) (hclock : pixelClock s = .ok t) :
    step s = .next t := by
  cases hrun : s.thread with
  | running => rw [step_of_program_nil hrun hprog, idleStep_of_pixelClock hclock]
  | stuck => rw [step_of_stuck hrun, idleStep_of_pixelClock hclock]

/-- R180: a pixel clock is the fetch and then the counter step, and with the invariant the fetch
succeeds. -/
theorem Scanning.pixelClock_ok (hinv : ParallelInv P s) (hs : Scanning s tc h v) :
    ∃ u, fetchLine tc h v s = .ok u ∧ pixelClock s = .ok (advanceCounters tc h v u) := by
  obtain ⟨m, hconf⟩ := hinv.config (by rw [hs.streaming]; decide) hs.timing
  obtain ⟨u, hfetch⟩ := fetchLine_total h v hconf.buffer hconf.size
  exact ⟨u, hfetch, by rw [hs.pixelClock_eq, hfetch]; rfl⟩

/-- R182: the column wraps at the end of a line, in a frame of no lines too. -/
theorem advanceCounters_hcnt_lineEnd (v : Nat) (s : State) (hend : h + 1 = lineTotal tc) :
    (advanceCounters tc h v s).hcnt = .val 0 := by
  rw [advanceCounters, if_pos hend, setCounters_hcnt]

/-- R183: the fetch at the first clock of active line `y` loads and shows row `y`. -/
theorem ConfigInv.fetchLine_row {m : Memory} (hconf : ConfigInv P s tc m)
    (hrow : framePhase tc v = .active y) :
    ∃ px u, fetchLine tc 0 v s = .ok u ∧ u.linebuf = .val px ∧
      u.trace = s.trace ++ [.line y px] ∧ px.length = tc.hRes ∧ RowShown s tc.hRes y px := by
  obtain ⟨px, u, hread⟩ := hconf.memRead_row (framePhase_eq_active_iff.mp hrow).1
  obtain ⟨_, -, -, -, hlen, hu⟩ := memRead_ok hread
  refine ⟨px, _, fetchLine_due hrow hread, rfl, ?_, hlen, fun x p hx hp => ?_⟩
  · rw [emit_trace, loadLine_trace, hu, setDraws_trace]
  · exact memRead_getElem? hread hx hp

/-- R181: `VCNT` outside the active phase of a frame. -/
theorem framePhase_blank (hout : v < tc.vsyncPw + tc.vbp ∨ tc.vsyncPw + tc.vbp + tc.vRes ≤ v) :
    ∀ y, framePhase tc v ≠ .active y := by
  intro y hrow
  obtain ⟨hy, hline⟩ := framePhase_eq_active_iff.mp hrow
  omega

/-- R183: at every other clock nothing is fetched. -/
theorem fetchLine_none (s : State) (hout : h ≠ 0 ∨ ∀ y, framePhase tc v ≠ .active y) :
    fetchLine tc h v s = .ok s := by
  obtain hne | hout := hout
  · exact fetchLine_not_due v s hne
  · cases hrow : activeRow tc v with
    | some y => exact absurd (framePhase_of_activeRow hrow) (hout y)
    | none => simp only [fetchLine, hrow, ite_self]

end Clock

/-- Settles O42: the fetch, which loads a row or does nothing, and then the counter step, which
keeps the line buffer and the trace. -/
theorem pixelClockStep : Obligations.PixelClockStep := by
  intro P s tc h v hinv hprog hstream htc hcol hrow
  have hs : Scanning s tc h v := ⟨hstream, htc, hcol, hrow⟩
  obtain ⟨m, hconf⟩ := hinv.config (by rw [hstream]; decide) htc
  obtain ⟨u, hfetch, hclock⟩ := hs.pixelClock_ok hinv
  obtain ⟨-, hvcnt⟩ := fetchLine_counters hfetch
  refine ⟨_, step_of_pixelClock hprog hclock, (pixelClock_engine hclock).frame,
    fun hend => ⟨advanceCounters_hcnt_lineEnd v u hend, fun hlines => ?_⟩, fun hin => ?_,
    fun y hfirst hy hline => ?_, fun hout => ?_⟩
  · rw [advanceCounters_lineEnd v u hend hlines, setCounters_vcnt]
  · rw [advanceCounters_inLine v u hin]
    exact ⟨rfl, rfl⟩
  · subst hfirst
    obtain ⟨px, u', hfetch', hbuf, htrace, hlen, hshown⟩ :=
      hconf.fetchLine_row (framePhase_eq_active_iff.mpr ⟨hy, hline⟩)
    obtain rfl : u = u' := Except.ok.inj (hfetch.symm.trans hfetch')
    rw [advanceCounters_linebuf, advanceCounters_trace]
    exact ⟨px, hbuf, htrace, hlen, hshown⟩
  · have hnone : fetchLine tc h v s = .ok s := fetchLine_none s (hout.imp_right framePhase_blank)
    obtain rfl : u = s := Except.ok.inj (hfetch.symm.trans hnone)
    exact ⟨advanceCounters_linebuf tc h v u, advanceCounters_trace tc h v u⟩

/-! ## `P_CONFIGURE` (R166, R167, R201) -/

section Configure

variable {P : Params} {s : State} {tc : TimingConfig} {width : Nat} {pl : Placement}
  {pins : List PinId}

/-- R167: on an unconfigured interface with 16 pins the first problem found is the error. -/
theorem pConfigureOp_problem {info : ConfigInfo} (hunconf : s.pState = .unconfigured)
    (hpins : pins.length = 16) (h : configProblem P s.busOwner tc width pl pins = some info) :
    pConfigureOp P tc width pl pins s = .err (.configError info) s := by
  rw [pConfigureOp, if_neg (not_not_intro hpins), if_neg (not_not_intro hunconf), h]
  rfl

/-- R167: with no problem the interface is configured; the state is that of `pConfigureOp_ends`. -/
theorem pConfigureOp_good (hunconf : s.pState = .unconfigured) (hpins : pins.length = 16)
    (h : configProblem P s.busOwner tc width pl pins = none) :
    pConfigureOp P tc width pl pins s = .ok .none
      { s with
        busOwner := .parallel, role := .hardwareSyncSignal, pState := .configured,
        tc := .val tc, pWidth := .val 16, pPlacement := .val pl, pPinmap := .val pins,
        pAlign := .val 64, fb := some ⟨tc.hRes * tc.vRes, []⟩,
        hcnt := .x, vcnt := .x, linebuf := .x,
        trace := s.trace ++
          [.busClaim .parallel, .role P.pinShared .hardwareSyncSignal, .parConfigured] } := by
  have hok : pConfigureOp P tc width pl pins s = .ok .none
      (enterConfigured (handOffSharedPin P (latchConfiguration tc width pl pins s))) := by
    rw [pConfigureOp, if_neg (not_not_intro hpins), if_neg (not_not_intro hunconf), h]
  have hends := pConfigureOp_ends P tc width pl pins s
  rw [hok] at hends ⊢
  obtain ⟨-, -, -, -, -, -, -, -, -, hstate⟩ := hends
  rw [hstate]

end Configure

/-- Settles O31: no check finds a problem. -/
theorem pConfigureCompletes : Obligations.PConfigureCompletes := by
  intro s tc pl pins hunconf hfree hpins hmap hrange hcapacity hclock
  have hgood := configProblem_none.mpr ⟨hfree, rfl, hmap, hrange, hcapacity, hclock⟩
  exact exec_ok (i := .pConfigure tc 16 pl pins) (pConfigureOp_good hunconf hpins hgood)

/-- Settles O32: each test is reached when those before it pass, and its failure is the problem
found. -/
theorem pConfigureErrorOrder : Obligations.PConfigureErrorOrder := by
  refine ⟨fun _ _ _ _ _ => rfl, fun P s tc width pl pins hunconf hpins => ?_⟩
  have hfails : ∀ info, configProblem P s.busOwner tc width pl pins = some info →
      finish (pConfigureOp P tc width pl pins s) =
        .next { s with result := some (.err (.configError info)) } := fun info h => by
    rw [pConfigureOp_problem hunconf hpins h, finish]
  refine ⟨fun howner => hfails _ ?_, fun hfree hwidth => hfails _ ?_,
    fun hfree hwidth hmap => hfails _ ?_, fun hfree hwidth hmap hrange => hfails _ ?_,
    fun hfree hwidth hmap hrange hcapacity => hfails _ ?_,
    fun hfree hwidth hmap hrange hcapacity hclock => hfails _ ?_⟩
  · rw [configProblem, if_pos howner]
  · simp [configProblem, hfree, hwidth]
  · simp [configProblem, hfree, hwidth, hmap]
  · simp [configProblem, hfree, hwidth, hmap, hrange]
  · have hbytes : P.fbCapacity pl < bufferBytes tc := hcapacity
    simp [configProblem, hfree, hwidth, hmap, hrange, hbytes]
  · have hbytes : bufferBytes tc ≤ P.fbCapacity pl := hcapacity
    simp [configProblem, hfree, hwidth, hmap, hrange, hbytes.not_gt, hclock]

/-- Settles O33: the two tests of a pin map, the repeated entry and the forbidden one. -/
theorem badPinMaps : Obligations.BadPinMaps := by
  intro P pins
  have hrepeated : (!decide pins.Nodup) = true ↔ ¬ pins.Nodup := by
    rw [Bool.not_eq_true', decide_eq_false_iff_not]
  have hforbidden : (pins.any fun p => !P.pinValid p || p == P.pinShared || p == P.pinBl) = true ↔
      ∃ p ∈ pins, P.pinValid p = false ∨ p = P.pinShared ∨ p = P.pinBl := by
    simp only [List.any_eq_true, Bool.or_eq_true, Bool.not_eq_true', beq_iff_eq, or_assoc]
  rw [badPinmap, Bool.or_eq_true, hrepeated, hforbidden]

/-! ## `P_RESET` and `P_INIT` (R172, R173) -/

section ResetInit

variable {s : State}

theorem pResetOp_configured (h : s.pState = .configured) : pResetOp s = .ok .none
    (emit .parReset { s with hcnt := .val 0, vcnt := .val 0, pState := .resetDone }) :=
  if_neg (not_not_intro h)

theorem pResetOp_outOfOrder (h : s.pState ≠ .configured) : pResetOp s = .refuse .resetOutOfOrder :=
  if_pos h

theorem pInitOp_resetDone (h : s.pState = .resetDone) :
    pInitOp s = .ok .none (emit .streamStart { s with pState := .streaming }) :=
  if_neg (not_not_intro h)

theorem pInitOp_outOfOrder (h : s.pState ≠ .resetDone) : pInitOp s = .refuse .initOutOfOrder :=
  if_pos h

end ResetInit

/-- Settles O34, by the interface's state. -/
theorem pResetFollowsRule : Obligations.PResetFollowsRule := fun _ =>
  ⟨fun h => exec_ok (i := .pReset) (pResetOp_configured h),
    fun h => exec_refused (i := .pReset) (pResetOp_outOfOrder h)⟩

/-- Settles O35, by the interface's state. -/
theorem pInitFollowsRule : Obligations.PInitFollowsRule := fun _ =>
  ⟨fun h => exec_ok (i := .pInit) (pInitOp_resetDone h),
    fun h => exec_refused (i := .pInit) (pInitOp_outOfOrder h)⟩

/-! ## The sync outputs (R185) -/

section Sync

variable {s : State} {tc : TimingConfig} {h v : Nat}

theorem Scanning.hsyncLine_eq (hs : Scanning s tc h v) :
    hsyncLine s = .sync (decide (h < tc.hsyncPw)) := by
  simp only [hsyncLine, hs.streaming, hs.timing, hs.column]

theorem Scanning.vsyncLine_eq (hs : Scanning s tc h v) :
    vsyncLine s = .sync (decide (v < tc.vsyncPw)) := by
  simp only [vsyncLine, hs.streaming, hs.timing, hs.row]

theorem sharedSync_hSync {P : Params} (s : State) (h : P.sharedSyncKind = .hSync) :
    sharedSync P s = hsyncLine s := by
  simp only [sharedSync, h]

theorem sharedSync_vSync {P : Params} (s : State) (h : P.sharedSyncKind = .vSync) :
    sharedSync P s = vsyncLine s := by
  simp only [sharedSync, h]

end Sync

/-- Settles O45: the pin in its sync role carries the signal of the parameters' kind. -/
theorem syncOutputs : Obligations.SyncOutputs := by
  intro P s tc h v hstream hrole htc hcol hrow
  have hs : Scanning s tc h v := ⟨hstream, htc, hcol, hrow⟩
  have hpin : sharedPinLine P s = sharedSync P s := sharedPinLine_of_sync P hrole
  exact ⟨hs.hsyncLine_eq, hs.vsyncLine_eq, fun hkind => hpin.trans (sharedSync_hSync s hkind),
    fun hkind => hpin.trans (sharedSync_vSync s hkind)⟩

end Sys2Proof.Machine

/-! The family 45_orchestrator.md: the error that ends a `BRING_UP`, and the end state of one that
completes. -/

namespace Sys2Proof.Machine

/-! ## The error that ends a `BRING_UP` (R190, R193) -/

/-- R191, R193: the errors that step `k` of a `BRING_UP` can raise. -/
def StepRaises (k : Nat) (e : Err) : Prop :=
  (k = 1 ∧ e = .configError .pinOwnedByTimingGenerator) ∨
  (k = 4 ∧ ∃ info, e = .busUnavailable info) ∨
  (k = 5 ∧ ∃ j cause, e = .programAborted j cause) ∨
  (k = 7 ∧ ∃ info, e = .configError info)

/-- R190: a `BRING_UP` is about to do step `k`. Between step 1, which makes the shared pin the reset
output, and the reset sequence at step 3 the pin is that output (R151). -/
structure BeforeStep (k : Nat) (s : State) : Prop where
  step : s.buStep = k
  role : k = 2 ∨ k = 3 → s.role = .digitalResetOutput

/-- R190, R193, D21: the error `e` is latched, with the step that raised it. -/
structure StoppedBy (e : Err) (s : State) : Prop where
  state : s.buState = .failed
  error : s.buErr = some e
  step  : StepRaises s.buStep e

/-- An end of step `k` of a `BRING_UP`: `ok` leads on to step `k + 1`, and an error is one that step
`k` can raise. -/
def OpOut.EndsStep (k : Nat) (o : OpOut) : Prop :=
  o.Ends (fun _ t => BeforeStep (k + 1) (advanceBringUp t))
    (fun e t => t.buStep = k ∧ StepRaises k e) (fun _ => True) (fun _ => True) fun _ => True

/-- The operation serves as step `k` of a `BRING_UP`. -/
def ServesAsStep (k : Nat) (f : State → OpOut) : Prop :=
  ∀ s, BeforeStep k s → (f s).EndsStep k

/-- The operations serve as the steps `k`, `k + 1`, … of a `BRING_UP`. -/
def ServeFrom : Nat → List (State → OpOut) → Prop
  | _, [] => True
  | k, f :: rest => ServesAsStep k f ∧ ServeFrom (k + 1) rest

section Stopped

variable {P : Params} {s t : State} {k : Nat} {e : Err}

/-- R23: the step is counted. -/
theorem BeforeStep.next (hstep : t.buStep = k)
    (hrole : k = 1 ∨ k = 2 → t.role = .digitalResetOutput) :
    BeforeStep (k + 1) (advanceBringUp t) :=
  ⟨congrArg (· + 1) hstep, fun hk => hrole (by omega)⟩

/-- R20: the engine leaves the sequencer and the shared pin alone. -/
theorem BeforeStep.engine (h : BeforeStep k s) (hengine : EngineOnly s t) : BeforeStep k t := by
  constructor
  · rw [hengine.frame]; exact h.step
  · rw [hengine.frame]; exact h.role

theorem StoppedBy.of_step (hstep : t.buStep = k) (hraises : StepRaises k e) :
    StoppedBy e (failBringUp e t) :=
  ⟨rfl, rfl, by subst hstep; exact hraises⟩

/-- Only the ends that return matter for the sequencer. -/
theorem OpOut.Ends.endsStep {o : OpOut} {p : Value → State → Prop} {x : Err → State → Prop}
    {w : State → Prop} {r : Refusal → Prop} {f : Fault → Prop} (h : o.Ends p x w r f)
    (hok : ∀ v t, p v t → BeforeStep (k + 1) (advanceBringUp t))
    (herr : ∀ e t, x e t → t.buStep = k ∧ StepRaises k e) : o.EndsStep k :=
  h.mono hok herr (fun _ _ => trivial) (fun _ _ => trivial) fun _ _ => trivial

/-- R190: the first error of the steps stops them there and is latched. -/
theorem bringUpSteps_stopped : ∀ (fs : List (State → OpOut)) {k : Nat} {s : State},
    ServeFrom k fs → BeforeStep k s →
    (bringUpSteps fs s).Ends (fun _ _ => True) StoppedBy (fun _ => True) (fun _ => True)
      fun _ => True
  | [], _, _, _, _ => trivial
  | [_], _, s, ⟨hf, _⟩, h =>
    afterStep_ends (hf s h) (fun _ _ _ => trivial) (fun _ _ he => .of_step he.1 he.2)
      (fun _ => id) (fun _ => id) fun _ => id
  | _ :: g :: rest, _, s, ⟨hf, hrest⟩, h =>
    afterStep_ends (hf s h)
      (fun _ _ ht => afterPart_ends
        (fun _ hseam => bringUpSteps_stopped (g :: rest) hrest (ht.engine (seam_engine hseam)))
        fun _ _ => trivial)
      (fun _ _ he => .of_step he.1 he.2) (fun _ => id) (fun _ => id) fun _ => id

/-! ### The steps -/

/-- R151, R152: the one error is that of a shared pin already handed off. -/
theorem configureOutputOp_serves_shared : ServesAsStep 1 (configureOutputOp P P.pinShared) := by
  intro s h
  refine (configureOutputOp_ends P P.pinShared s).endsStep ?_ ?_
  · rintro v t ⟨-, ⟨-, -, rfl⟩ | ⟨-, hrole, rfl⟩ | ⟨hne, -⟩⟩
    · exact .next h.step fun _ => rfl
    · exact .next h.step fun _ => hrole
    · exact absurd rfl hne
  · rintro e t ⟨rfl, -, -, rfl⟩
    exact ⟨h.step, .inl ⟨rfl, rfl⟩⟩

theorem configureOutputOp_serves_backlight (hne : P.pinBl ≠ P.pinShared) :
    ServesAsStep 0 (configureOutputOp P P.pinBl) := by
  intro s h
  rw [configureOutputOp_backlight hne]
  exact .next h.step (by omega)

/-- R150, R154: setting the level of the backlight pin raises no error. -/
theorem setLevelOp_serves (hne : P.pinBl ≠ P.pinShared) (k : Nat) (hk : k ≠ 1) (l : Level) :
    ServesAsStep k (setLevelOp P P.pinBl l) := by
  intro s h
  refine (setLevelOp_ends P P.pinBl l s).endsStep ?_ ?_
  · rintro v t ⟨-, ⟨hpin, -⟩ | ⟨-, -, -, rfl⟩⟩
    · exact absurd hpin hne
    · exact .next h.step fun hk' => h.role (by omega)
  · rintro e t ⟨-, hpin, -⟩
    exact absurd hpin hne

/-- R156: the pin is still the reset output, so the reset sequence raises no error. -/
theorem timedResetOp_serves : ServesAsStep 3 (timedResetOp P P.pinShared) := by
  intro s h
  refine (timedResetOp_shared P s (h.role (.inr rfl))).endsStep ?_ fun _ _ => False.elim
  rintro v t ⟨-, hafter⟩
  refine .next ?_ (by omega)
  rw [hafter.frame]
  exact h.step

theorem openOp_serves (bus : BusId) (clk mode : Nat) (sel : PinId) (depth : Nat) :
    ServesAsStep 4 (openOp P bus clk mode sel depth) := by
  intro s h
  refine (openOp_ends P bus clk mode sel depth s).endsStep ?_ ?_
  · rintro v t ⟨-, -, -, rfl⟩
    exact .next h.step (by omega)
  · rintro e t ⟨hinfo, rfl⟩
    exact ⟨h.step, .inr (.inl ⟨rfl, hinfo⟩)⟩

theorem runOp_serves : ServesAsStep 5 (runOp P) := by
  intro s h
  refine (runOp_ends P s).endsStep ?_ ?_
  · rintro v t ⟨-, -, ht⟩
    exact .next (by rw [ht]; exact h.step) (by omega)
  · rintro e t ⟨-, j, cause, u, he, -, ht⟩
    exact ⟨by rw [ht]; exact h.step, .inr (.inr (.inl ⟨rfl, j, cause, he⟩))⟩

theorem closeOp_serves : ServesAsStep 6 closeOp := fun s h =>
  (closeOp_ends s).endsStep (by rintro v t ⟨-, -, rfl⟩; exact .next h.step (by omega))
    fun _ _ => False.elim

theorem pConfigureOp_serves (tc : TimingConfig) (width : Nat) (pl : Placement)
    (pins : List PinId) : ServesAsStep 7 (pConfigureOp P tc width pl pins) := by
  intro s h
  refine (pConfigureOp_ends P tc width pl pins s).endsStep ?_ ?_
  · rintro v t ⟨-, -, -, -, -, -, -, -, -, rfl⟩
    exact .next h.step (by omega)
  · rintro e t ⟨hinfo, rfl⟩
    exact ⟨h.step, .inr (.inr (.inr ⟨rfl, hinfo⟩))⟩

theorem pResetOp_serves : ServesAsStep 8 pResetOp := fun s h =>
  (pResetOp_ends s).endsStep (by rintro v t ⟨-, -, rfl⟩; exact .next h.step (by omega))
    fun _ _ => False.elim

theorem pInitOp_serves : ServesAsStep 9 pInitOp := fun s h =>
  (pInitOp_ends s).endsStep (by rintro v t ⟨-, -, rfl⟩; exact .next h.step (by omega))
    fun _ _ => False.elim

/-- R191: the eleven steps, each in its place. -/
theorem bringUpTable_serves (hne : P.pinBl ≠ P.pinShared) : ServeFrom 0 (bringUpTable P) :=
  ⟨configureOutputOp_serves_backlight hne, configureOutputOp_serves_shared,
    setLevelOp_serves hne 2 (by decide) _, timedResetOp_serves, openOp_serves _ _ _ _ _,
    runOp_serves, closeOp_serves, pConfigureOp_serves _ _ _ _, pResetOp_serves, pInitOp_serves,
    setLevelOp_serves hne 10 (by decide) _, trivial⟩

/-- R190, R193: an error of `BRING_UP` is latched and names the step it stopped at. -/
theorem bringUpOp_stopped (hne : P.pinBl ≠ P.pinShared) (s : State) :
    (bringUpOp P s).Ends (fun _ _ => True) StoppedBy (fun _ => True) (fun _ => True)
      fun _ => True := by
  unfold bringUpOp
  split
  · trivial
  · exact (bringUpSteps_stopped _ (bringUpTable_serves hne) ⟨rfl, by omega⟩).call
      fun _ _ _ => trivial

end Stopped

/-- Settles O48: of the ends of a `BRING_UP` only an error returns one; the steps before the last
leave the backlight off, and the last one raises none. -/
theorem bringUpAborts : Obligations.BringUpAborts := by
  refine ⟨exec_eq .bringUp, fun P s t e hpins ht hrun hres => ?_⟩
  have hends := (bringUpOp_stopped (Ne.symm hpins.1) s).and (bringUpOp_backlight hpins s)
  obtain ⟨v, u, -, rfl⟩ | ⟨x, u, ⟨hstopped, hoff⟩, rfl⟩ | ⟨u, -, rfl⟩ := hends.of_finish ht
  · cases hres
  · cases hres
    exact ⟨hstopped.state, hstopped.error, hstopped.step, hoff.exists_notMem⟩
  · cases hrun

/-! ## A `BRING_UP` that completes (R190, R191, R194) -/

section Completes

variable {P : Params} {s : State}

/-- R191: the events of the steps of a first `BRING_UP` from its `RUN` to `P_INIT`. -/
def runToInitEvents (P : Params) : List Event :=
  (programSteps P).map ProgramStep.event ++
    [.busRelease, .busClaim .parallel, .role P.pinShared .hardwareSyncSignal, .parConfigured,
     .parReset, .streamStart]

/-- R191: the state in which a first `BRING_UP` comes to its last step, but for what the engine does
before it. -/
def beforeSwitchOn (P : Params) (s : State) : State :=
  { beforeRun P s with
    busOwner := .parallel, tState := .closed, txsr := .val (unitOf false P.cmdDisplayOn),
    role := .hardwareSyncSignal, pState := .streaming, tc := .val Config.timing,
    pWidth := .val 16, pPlacement := .val Config.fbPlacement, pPinmap := .val P.dataPinMap,
    pAlign := .val 64, fb := some ⟨Config.timing.hRes * Config.timing.vRes, []⟩,
    hcnt := .val 0, vcnt := .val 0, linebuf := .x,
    prgPc := programLen P, prgState := .done, buStep := 10, panel := .programmed,
    trace := (beforeRun P s).trace ++ runToInitEvents P,
    draws := drawsAfter (programFrames P) s.draws }

/-- D27: the numbers of R8 pass the tests of `P_CONFIGURE` on a free bus. -/
theorem configProblem_ownTiming (c : P.Constraints) :
    configProblem P .free Config.timing Config.parWidth Config.fbPlacement P.dataPinMap = none :=
  configProblem_none.mpr
    ⟨rfl, rfl, goodPinmap c, c.timingRange, c.capacity, c.pclkLimit⟩

/-- R191: from the `RUN` to `P_INIT` every step ends `ok`. -/
theorem bringUpSteps_toSwitchOn (c : P.Constraints) (hunconf : s.pState = .unconfigured)
    (hall : allComplete (programFrames P) s.draws) :
    bringUpSteps ((bringUpTable P).drop 5) (beforeRun P s) =
      afterPart (seam (beforeSwitchOn P s))
        fun u => bringUpSteps [setLevelOp P P.pinBl P.blOnLevel] u := by
  have htail : (bringUpTable P).drop 5 = [runOp P, closeOp,
      pConfigureOp P Config.timing Config.parWidth Config.fbPlacement P.dataPinMap, pResetOp,
      pInitOp, setLevelOp P P.pinBl P.blOnLevel] := rfl
  rw [htail, bringUpSteps_next (runOp_completes (s := beforeRun P s) rfl rfl ?_ hall) ?_,
    bringUpSteps_next (closeOp_opened ?_) ?_,
    bringUpSteps_next (pConfigureOp_good ?_ c.dataPinCount (configProblem_ownTiming c)) ?_,
    bringUpSteps_next (pResetOp_configured ?_) ?_,
    bringUpSteps_cons (by simp), pInitOp_resetDone ?_, afterStep]
  · simp [beforeSwitchOn, runToInitEvents, beforeRun, advanceBringUp, emit]
  all_goals simp [beforeRun, hunconf, Config.serQueueDepth]

/-- R34 to R39: the interface's invariant where the engine begins to run. -/
theorem beforeSwitchOn_inv (c : P.Constraints) (s : State) :
    ParallelInv P (beforeSwitchOn P s) where
  absent := nofun
  configured _ := ⟨Config.timing, _,
    { timing := rfl, width := rfl, align := rfl
      pinmap := ⟨_, rfl, c.dataPinCount, goodPinmap c⟩
      placement := ⟨_, rfl, c.capacity⟩
      inRange := c.timingRange, clock := c.pclkLimit
      buffer := rfl, size := rfl, canonical := rfl, line := nofun }⟩
  unknown := nofun
  zeroed := nofun
  counting _ := ⟨_, 0, 0, rfl, rfl, rfl, id, id⟩

/-- R190, R191: the last step switches the backlight on, and the `BRING_UP` ends. -/
def bringUpEnd (P : Params) (s : State) : State :=
  { s with
    blLevel := .val P.blOnLevel, buStep := 11, buState := .ready,
    trace := s.trace ++ [.level P.pinBl P.blOnLevel] }

/-- R190, R191: a first `BRING_UP` whose transactions complete, on a free bus and before the
hand-off of the shared pin, ends `ok`; before its last step the engine runs. -/
theorem bringUpOp_completes (c : P.Constraints) (hfirst : s.buState = .idle)
    (hfree : s.busOwner = .free) (hunconf : s.pState = .unconfigured)
    (hrole : s.role ≠ .hardwareSyncSignal) (hall : allComplete (programFrames P) s.draws) :
    ∃ u, EngineOnly (beforeSwitchOn P s) u ∧ bringUpOp P s = .ok .none (bringUpEnd P u) := by
  have hne : P.pinBl ≠ P.pinShared := Ne.symm c.pinsDistinct.1
  obtain ⟨u, hseam, -, hengine⟩ := seam_keeps (beforeSwitchOn_inv c s)
  have hcfg : u.blCfg = true := by rw [hengine.frame]; rfl
  have hstep : u.buStep = 10 := by rw [hengine.frame]; rfl
  refine ⟨u, hengine, ?_⟩
  rw [bringUpOp, if_neg (not_not_intro hfirst), bringUpSteps_toRun c.pinsDistinct
    (c.pinsValid _ (by simp)) hfree (by simp [hunconf]) hrole,
    bringUpSteps_toSwitchOn c hunconf hall, hseam, afterPart, bringUpSteps,
    setLevelOp_backlight _ hne hcfg]
  simp [afterStep, OpOut.call, bringUpEnd, advanceBringUp, endBringUp, emit, hstep]

/-! ### The thread's events -/

theorem threadEvents_of_noLine {tr : List Event} (h : ∀ e ∈ tr, e.isLine = false) :
    threadEvents tr = tr :=
  List.filter_eq_self.mpr fun e he => by rw [h e he]; rfl

/-- R145: the events of the program's steps are the thread's. -/
theorem threadEvents_program (steps : List ProgramStep) :
    threadEvents (steps.map ProgramStep.event) = steps.map ProgramStep.event :=
  threadEvents_of_noLine (List.forall_mem_map.mpr fun x _ => by cases x <;> rfl)

/-- R191: the events of the ten steps before the last one, in order. -/
theorem threadEvents_beforeSwitchOn (P : Params) (s : State) :
    threadEvents (beforeSwitchOn P s).trace = threadEvents s.trace ++
      (if s.role = .unassigned then [.role P.pinShared .digitalResetOutput] else []) ++
      [.level P.pinBl (!P.blOnLevel)] ++ resetEvents P.pinShared ++ [.busClaim .serial] ++
      runToInitEvents P := by
  have hrole : threadEvents (if s.role = .unassigned then
      [.role P.pinShared .digitalResetOutput] else []) =
      if s.role = .unassigned then [.role P.pinShared .digitalResetOutput] else [] := by
    split <;> rfl
  simp only [beforeSwitchOn, beforeRun, runToInitEvents, threadEvents_append, hrole,
    threadEvents_program]
  rfl

theorem threadEvents_bringUpEnd (P : Params) (s : State) :
    threadEvents (bringUpEnd P s).trace =
      threadEvents s.trace ++ [.level P.pinBl P.blOnLevel] :=
  threadEvents_append _ _

end Completes

/-- Settles O47: the engine runs only between the last two steps, and leaves the thread's events as
they are. -/
theorem bringUpCompletes : Obligations.BringUpCompletes := by
  intro s hfirst hfree hunconf hrole hall
  obtain ⟨u, hengine, hop⟩ :=
    bringUpOp_completes Config.params_constraints hfirst hfree hunconf hrole hall
  refine ⟨_, exec_ok (i := .bringUp) hop, ?_, ?_⟩
  · exact congrArg (fun x => { bringUpEnd Config.params x with result := some (.ok .none) })
      hengine.frame
  · change threadEvents (bringUpEnd Config.params u).trace = _
    rw [threadEvents_bringUpEnd, hengine.threadEvents, threadEvents_beforeSwitchOn]
    simp [runToInitEvents, resetEvents]

end Sys2Proof.Machine

/-! The family 60_exceptions.md: the errors that leave the state as it was, and the errors of `OPEN`
and of `DRAW_RECT` in each of their cases. -/

namespace Sys2Proof.Machine

/-! ## The exact errors (R210) -/

/-- R210: the errors that are raised before the operation has changed anything. -/
def Err.IsExact (e : Err) : Prop :=
  (∃ info, e = .configError info) ∨ (∃ info, e = .busUnavailable info) ∨
    (∃ info, e = .outOfBounds info) ∨ e = .transportError .queueFull

/-- R210: an operation begun in `s` that ends with an exact error leaves `s` as it was, but for the
choices made in reading it. -/
def OpOut.ExactAt (s : State) (o : OpOut) : Prop :=
  o.Ends (fun _ _ => True) (fun e t => e.IsExact → t = setDraws t.draws s) (fun _ => True)
    (fun _ => True) fun _ => True

/-- R210, in whatever state the operation begins. -/
def ExactInPlace (f : State → OpOut) : Prop := ∀ s, (f s).ExactAt s

section ExactErrors

variable (P : Params)

theorem OpOut.Ends.exactAt {o : OpOut} {s : State} {k : Value → State → Prop}
    {x : Err → State → Prop} {w : State → Prop} {r : Refusal → Prop} {f : Fault → Prop}
    (h : o.Ends k x w r f) (herr : ∀ e t, x e t → e.IsExact → t = setDraws t.draws s) :
    o.ExactAt s :=
  h.mono (fun _ _ _ => trivial) herr (fun _ _ => trivial) (fun _ _ => trivial) fun _ _ => trivial

theorem not_isExact_programAborted (k : Nat) (cause : TxCause) :
    ¬ (Err.programAborted k cause).IsExact := by
  simp [Err.IsExact]

theorem isExact_transportError {cause : TxCause} :
    (Err.transportError cause).IsExact ↔ cause = .queueFull := by
  simp [Err.IsExact]

theorem openOp_exactInPlace (bus : BusId) (clk mode : Nat) (sel : PinId) (depth : Nat) :
    ExactInPlace (openOp P bus clk mode sel depth) := fun s =>
  (openOp_ends P bus clk mode sel depth s).exactAt (by rintro e t ⟨-, rfl⟩ -; rfl)

/-- R203: of the failures of a `SEND` only the full queue is found before the submission. -/
theorem sendOp_exactInPlace (u : Unit9) : ExactInPlace (sendOp P u) := by
  intro s
  refine (sendOp_ends P u s).exactAt ?_
  rintro e t ⟨-, ⟨-, hsame⟩ | ⟨cause, hcause, rfl, -⟩⟩ hexact
  · exact hsame
  · exact absurd (isExact_transportError.mp hexact) hcause

theorem closeOp_exactInPlace : ExactInPlace closeOp := fun s =>
  (closeOp_ends s).exactAt fun _ _ => False.elim

/-- R140, R204: a `RUN` raises no exact error; its `QueueFull` is inside a `ProgramAborted`. -/
theorem runOp_exactInPlace : ExactInPlace (runOp P) := by
  intro s
  refine (runOp_ends P s).exactAt ?_
  rintro e t ⟨-, k, cause, -, rfl, -⟩ hexact
  exact absurd hexact (not_isExact_programAborted k cause)

theorem configureOutputOp_exactInPlace (pin : PinId) : ExactInPlace (configureOutputOp P pin) :=
  fun s => (configureOutputOp_ends P pin s).exactAt (by rintro e t ⟨-, -, -, rfl⟩ -; rfl)

theorem setLevelOp_exactInPlace (h : PinId) (l : Level) : ExactInPlace (setLevelOp P h l) :=
  fun s => (setLevelOp_ends P h l s).exactAt (by rintro e t ⟨-, -, -, rfl⟩ -; rfl)

theorem timedResetOp_exactInPlace (h : PinId) : ExactInPlace (timedResetOp P h) :=
  fun s => (timedResetOp_ends P h s).exactAt (by rintro e t ⟨-, -, -, rfl⟩ -; rfl)

theorem pConfigureOp_exactInPlace (tc : TimingConfig) (width : Nat) (pl : Placement)
    (pins : List PinId) : ExactInPlace (pConfigureOp P tc width pl pins) := fun s =>
  (pConfigureOp_ends P tc width pl pins s).exactAt (by rintro e t ⟨-, rfl⟩ -; rfl)

theorem pResetOp_exactInPlace : ExactInPlace pResetOp := fun s =>
  (pResetOp_ends s).exactAt fun _ _ => False.elim

theorem pInitOp_exactInPlace : ExactInPlace pInitOp := fun s =>
  (pInitOp_ends s).exactAt fun _ _ => False.elim

/-- R177: the bounds test comes after a read of the timing and before any row is written; the
copy-in raises nothing. -/
theorem drawRectOp_exactInPlace (x0 y0 x1 y1 : Int) (px : List Pixel) :
    ExactInPlace (drawRectOp x0 y0 x1 y1 px) := by
  intro s
  unfold drawRectOp
  split
  · trivial
  · dsimp only
    split
    · exact fun _ => readX_snd s.tc s
    · exact (writeRows_raises _ _ _ _ _ _ _ _).exactAt fun _ _ => False.elim

end ExactErrors

/-- R210: every instruction but `BRING_UP`, whose steps before the failed one stand (R193). -/
theorem opOf_exactInPlace : ∀ i : Instr, i ≠ .bringUp → ExactInPlace (opOf i)
  | .encCmd _, _ | .encData _, _ | .decUnit _, _ | .delay _, _ => fun _ => trivial
  | .openBus _ _ _ _ _, _ => openOp_exactInPlace _ _ _ _ _ _
  | .send _, _ | .cmd _, _ | .data _, _ => sendOp_exactInPlace _ _
  | .close, _ => closeOp_exactInPlace
  | .run, _ => runOp_exactInPlace _
  | .configureOutput _, _ => configureOutputOp_exactInPlace _ _
  | .setLevel _ _, _ => setLevelOp_exactInPlace _ _ _
  | .timedResetSequence _, _ => timedResetOp_exactInPlace _ _
  | .pConfigure _ _ _ _, _ => pConfigureOp_exactInPlace _ _ _ _ _
  | .pReset, _ => pResetOp_exactInPlace
  | .pInit, _ => pInitOp_exactInPlace
  | .drawRect _ _ _ _ _, _ => drawRectOp_exactInPlace _ _ _ _ _
  | .bringUp, hne => absurd rfl hne

/-- Settles O58: a step returns the error its operation ended with, in the operation's state. -/
theorem exactErrorsChangeNothing : Obligations.ExactErrorsChangeNothing := by
  intro i s t e hne hexec hrun hres hexact
  rw [exec_eq] at hexec
  obtain ⟨v, u, -, rfl⟩ | ⟨x, u, hplace, rfl⟩ | ⟨u, -, rfl⟩ :=
    OpOut.Ends.of_finish (opOf_exactInPlace i hne s) hexec
  · cases hres
  · cases hres
    exact congrArg (fun v : State => { v with result := some (.err e) }) (hplace hexact)
  · cases hrun

/-! ## `OPEN` in each of its cases (R121, R202) -/

section Open

variable {P : Params} {s : State} {bus : BusId} {clk mode : Nat} {sel : PinId} {depth : Nat}

theorem openOp_claimed (h : s.busOwner ≠ .free) :
    openOp P bus clk mode sel depth s = .err (.busUnavailable .alreadyInUse) s := by
  rw [openOp, if_pos h, raise]

theorem openOp_invalidPin (hfree : s.busOwner = .free) (hpin : P.pinValid sel = false) :
    openOp P bus clk mode sel depth s = .err (.busUnavailable .invalidPin) s := by
  rw [openOp, if_neg (not_not_intro hfree), if_pos hpin, raise]

end Open

/-- Settles O13, by the bus's owner and the select pin. -/
theorem openFollowsRule : Obligations.OpenFollowsRule := fun bus clk mode sel depth s =>
  ⟨exec_eq (.openBus bus clk mode sel depth) s,
    fun hclaimed => exec_err (i := .openBus bus clk mode sel depth) (openOp_claimed hclaimed),
    fun _ hfree hpin => by rw [openOp_invalidPin hfree hpin, finish],
    fun hfree hpin => exec_ok (i := .openBus bus clk mode sel depth) (openOp_free hfree hpin)⟩

/-! ## The errors of `DRAW_RECT` (R177, R205) -/

section Bounds

variable {s : State} {tc : TimingConfig} {w h : Nat} {x0 y0 x1 y1 : Int} {pixels : List Pixel}

theorem boundsError_badRect
    (hrect : ¬ (0 ≤ x0 ∧ x0 < x1 ∧ x1 ≤ w ∧ 0 ≤ y0 ∧ y0 < y1 ∧ y1 ≤ h)) :
    boundsError w h x0 y0 x1 y1 pixels = some .badRect := by
  unfold boundsError
  by_cases hcols : 0 ≤ x0 ∧ x0 < x1 ∧ x1 ≤ w
  · rw [if_neg (not_not_intro hcols), if_pos (by omega)]
  · rw [if_pos hcols]

theorem boundsError_badLength
    (hrect : 0 ≤ x0 ∧ x0 < x1 ∧ x1 ≤ w ∧ 0 ≤ y0 ∧ y0 < y1 ∧ y1 ≤ h)
    (hlen : (pixels.length : Int) ≠ (x1 - x0) * (y1 - y0)) :
    boundsError w h x0 y0 x1 y1 pixels = some .badLength := by
  obtain ⟨hx0, hx, hx1, hrows⟩ := hrect
  rw [boundsError, if_neg (not_not_intro ⟨hx0, hx, hx1⟩), if_neg (not_not_intro hrows),
    if_pos hlen]

theorem drawRectOp_outOfBounds {info : BoundsInfo} (hconf : s.pState ≠ .unconfigured)
    (htc : s.tc = .val tc) (hbounds : boundsError tc.hRes tc.vRes x0 y0 x1 y1 pixels = some info) :
    drawRectOp x0 y0 x1 y1 pixels s = .err (.outOfBounds info) s := by
  rw [drawRectOp, if_neg hconf, htc]
  dsimp only [readX_val]
  rw [hbounds]
  rfl

end Bounds

/-- Settles O37, by the first bounds test that fails. -/
theorem drawRectOutOfBounds : Obligations.DrawRectOutOfBounds :=
  fun _ _ x0 y0 x1 y1 pixels hconf htc =>
    ⟨fun hrect => exec_err (i := .drawRect x0 y0 x1 y1 pixels)
      (drawRectOp_outOfBounds hconf htc (boundsError_badRect hrect)),
    fun hrect hlen => exec_err (i := .drawRect x0 y0 x1 y1 pixels)
      (drawRectOp_outOfBounds hconf htc (boundsError_badLength hrect hlen))⟩

end Sys2Proof.Machine
